-- ==== Sys2Proof/Word.lean ====
section
/-! DEFINITION. The widths of the block's values (spec/00_scope.md R11, R12).

A byte, a 16-bit and a 32-bit value are bit vectors: the spec shifts, masks and XORs them. A signed value of the
spec (`i16`, `i32`) is the bit vector of its two's-complement form (R12 `bits16`, `bits32`; log 14), so
`bits16` and `bits32` are the identity here.
-/

namespace Sys2Proof

/-- `u8` of R12. -/
abbrev Byte := BitVec 8

/-- `u16` of R12, and `i16` as its two's-complement bits (PRESUMED by the spec itself: R12, R66; log 14). -/
abbrev Word16 := BitVec 16

/-- `u32` of R12, and `i32` as its two's-complement bits (log 14). -/
abbrev Word32 := BitVec 32

end Sys2Proof
end

