-- ==== Sys2Proof/Config.lean ====
section
/-! DEFINITION. What is fixed when a block is built (spec/00_scope.md R6 to R10), and the free values.

The spec makes each of these a parameter of the model. Each is an opaque constant, so nothing can be proved of its
value and a theorem holds for every block (log 5). A parameter with a restricted range is built from an opaque
index into exactly that range.
-/

namespace Sys2Proof

/-- `PX4FLOW_MODE` (R10): how the block handles command id 125. -/
inductive Px4flowMode where
  /-- 125 is an unknown id (the spec's default, D12). -/
  | unregistered
  /-- 125 answers with a zero-length success reply. -/
  | okEmpty
deriving DecidableEq, Repr, Inhabited

/-- How far `CAPACITY` lies above 19: any of 0 to 236 (R6). -/
opaque Config.capacityAboveMin : Fin 237

/-- `CAPACITY` (R6): the number of bytes in the payload buffer, 19 ≤ CAPACITY ≤ 255. -/
def Config.capacity : Nat := Config.capacityAboveMin.val + 19

/-- Which of the 254 legal bytes `REBOOT_CHAR` is (R7). -/
opaque Config.rebootIndex : Fin 254

/-- The legal values of `REBOOT_CHAR` in rising order: every byte except 0x23 and 0x24 (R7). -/
def Config.rebootCharAt (i : Fin 254) : Byte :=
  if i.val < 0x23 then BitVec.ofNat 8 i.val else BitVec.ofNat 8 (i.val + 2)

/-- `REBOOT_CHAR` (R7): the out-of-band bootloader byte. -/
def Config.rebootChar : Byte := Config.rebootCharAt Config.rebootIndex

/-- `BUILD_DATE` (R8): the 11 bytes BUILDINFO emits. -/
opaque Config.buildDate : Vector Byte 11

/-- `ACC_SCALE` (R9): the function from i16 to i16 that "scaled ÷8" denotes. -/
opaque Config.accScale : Word16 → Word16

/-- `PX4FLOW_MODE` (R10). -/
opaque Config.px4flowMode : Px4flowMode

/-- Whether this block has the optional diagnostic of R176 (DESIGN CHOICE: the spec says a model "may" append it;
log 6). -/
opaque Config.dropDiag : Bool

/-- The free bytes: what the `n`-th read of a never-written buffer byte returns (R52 "any byte value, chosen freely
at that read"; log 3). -/
opaque Config.freeByte : Nat → Byte

end Sys2Proof
end

