-- ==== Sys2Proof/Syntax.lean ====
section
/-! DEFINITION. The instructions: one constructor per row of spec/opcode_table.json (spec/30_encoding.md R67 to R69).

An inbound frame's operand is its payload; `len` is the payload's length and the checksum is computed, so neither is
stored. The three single-byte rows have no operand.
-/

namespace Sys2Proof

/-- One row of the opcode table each. -/
inductive Instr where
  /-- STATUS, id 101 (R131). -/
  | status (payload : List Byte)
  /-- RAW_IMU, id 102 (R132). -/
  | rawImu (payload : List Byte)
  /-- MOTOR, id 104 (R133). -/
  | motor (payload : List Byte)
  /-- RC, id 105 (R134). -/
  | rc (payload : List Byte)
  /-- ATTITUDE, id 108 (R135). -/
  | attitude (payload : List Byte)
  /-- ALTITUDE, id 109 (R136). -/
  | altitude (payload : List Byte)
  /-- PX4FLOW, id 125 (R137). -/
  | px4flow (payload : List Byte)
  /-- MB1242, id 126 (R138). -/
  | mb1242 (payload : List Byte)
  /-- SET_RAW_RC, id 200 (R139). -/
  | setRawRc (payload : List Byte)
  /-- SET_MOTOR, id 214 (R140). -/
  | setMotor (payload : List Byte)
  /-- REBOOT, id 68 (R141). -/
  | reboot (payload : List Byte)
  /-- BUILDINFO, id 69 (R142). -/
  | buildInfo (payload : List Byte)
  /-- UNKNOWN: a frame whose id is none of the 12 named ones (R143, R68). -/
  | unknown (cmd : Byte) (payload : List Byte)
  /-- START: the start marker read in IDLE (R101). -/
  | start
  /-- NOOP: the no-op byte read in IDLE (R103). -/
  | noop
  /-- BOOT: REBOOT_CHAR read in IDLE (R104). -/
  | boot
deriving DecidableEq, Repr

end Sys2Proof
end

