-- ==== Sys2Proof/Decode.lean ====
section
/-! DEFINITION. The encodings (spec/30_encoding.md): the frame formats, the command-id map, the decoder and the encoder.

`decode` reads the bytes of ONE instruction: a single byte is read as the idle-byte rows are (R69, R101), anything
longer as an inbound frame (R61); a frame is never shorter than 6 bytes (R60), so the two never meet (log 12).
The parser of Machine/Parser.lean uses the same two tables, `Instr.ofCommand` and `decodeIdle`.
-/

namespace Sys2Proof

/-! ## Fixed bytes (R12, R61, R63, R69) -/

/-- `'$'`, offset 0 of every frame. -/
def startMarker : Byte := 0x24#8

/-- `'M'`, offset 1 of every frame. -/
def protocolLetter : Byte := 0x4D#8

/-- `'<'`, offset 2 of an inbound frame. -/
def inboundArrow : Byte := 0x3C#8

/-- Offset 2 of a reply: `'>'` for success, `'!'` for error (R63; the code of `'!'` is PRESUMED by the spec itself,
R12; log 14). -/
def statusByte (ok : Bool) : Byte := if ok then 0x3E#8 else 0x21#8

/-- `'#'`, the no-op byte (R69). -/
def noopByte : Byte := 0x23#8

/-! ## Frames -/

/-- The XOR of a byte sequence, from 0 (R62). -/
def xorAll (bs : List Byte) : Byte := bs.foldl (· ^^^ ·) 0#8

/-- The checksum of a frame, inbound or outbound: the XOR of `len`, `cmd` and all payload bytes (R62, R64). -/
def frameChecksum (cmd : Byte) (payload : List Byte) : Byte :=
  BitVec.ofNat 8 payload.length ^^^ cmd ^^^ xorAll payload

/-- A frame with the given direction or status byte at offset 2 (R61, R63). -/
def frameBytes (mark cmd : Byte) (payload : List Byte) : List Byte :=
  [startMarker, protocolLetter, mark, BitVec.ofNat 8 payload.length, cmd] ++ payload ++ [frameChecksum cmd payload]

/-- `FRAME(cmd, payload)` of R72: the inbound frame. -/
def inboundFrame (cmd : Byte) (payload : List Byte) : List Byte := frameBytes inboundArrow cmd payload

/-- `REPLY_OK` and `REPLY_ERR` of R72: the reply frame (R63). -/
def replyFrame (ok : Bool) (cmd : Byte) (payload : List Byte) : List Byte := frameBytes (statusByte ok) cmd payload

/-! ## The command-id map (R67, R130) -/

/-- The instruction a valid frame's id selects: the 12 named ids, and the default arm last (R67, R68, R130). -/
def Instr.ofCommand (cmd : Byte) (payload : List Byte) : Instr :=
  if cmd = 0x65#8 then .status payload
  else if cmd = 0x66#8 then .rawImu payload
  else if cmd = 0x68#8 then .motor payload
  else if cmd = 0x69#8 then .rc payload
  else if cmd = 0x6C#8 then .attitude payload
  else if cmd = 0x6D#8 then .altitude payload
  else if cmd = 0x7D#8 then .px4flow payload
  else if cmd = 0x7E#8 then .mb1242 payload
  else if cmd = 0xC8#8 then .setRawRc payload
  else if cmd = 0xD6#8 then .setMotor payload
  else if cmd = 0x44#8 then .reboot payload
  else if cmd = 0x45#8 then .buildInfo payload
  else .unknown cmd payload

/-- The 12 ids that have a row of their own in R67. -/
def namedIds : List Byte :=
  [0x65#8, 0x66#8, 0x68#8, 0x69#8, 0x6C#8, 0x6D#8, 0x7D#8, 0x7E#8, 0xC8#8, 0xD6#8, 0x44#8, 0x45#8]

/-- The instruction a single byte read in IDLE stands for, in the order of R178 (2): the start marker, the no-op byte,
`REBOOT_CHAR`; every other byte is none (R102, R105). Whether NOOP and BOOT are honoured (unarmed) is the meanings'
own check. -/
def decodeIdle (rebootChar : Byte) (b : Byte) : Option Instr :=
  if b = startMarker then some .start
  else if b = noopByte then some .noop
  else if b = rebootChar then some .boot
  else none

/-! ## The decoder -/

/-- Why a byte sequence is no instruction. -/
inductive DecodeError where
  /-- No byte at all. -/
  | empty
  /-- One byte that is none of the idle-byte rows (R105). -/
  | strayByte
  /-- Offset 0 is not `'$'`. -/
  | notStartMarker
  /-- Offset 1 is not `'M'` (R70, class (a)). -/
  | badLetter
  /-- Offset 2 is not `'<'` (R70, R71, class (a)). -/
  | badDirection
  /-- `len` is above CAPACITY (R70, class (b)). -/
  | oversized
  /-- The bytes end before the frame does. -/
  | truncated
  /-- The trailing byte is not the checksum (R62, class (c)). -/
  | badChecksum
  /-- Bytes follow the frame. -/
  | trailing
deriving DecidableEq, Repr

/-- Offsets 5 and up: `len` payload bytes, then the checksum. -/
def decodePayload (len cmd : Byte) (bytes : List Byte) : Except DecodeError (Instr × List Byte) :=
  match bytes.drop len.toNat with
  | [] => .error .truncated
  | c :: rest =>
    if c = frameChecksum cmd (bytes.take len.toNat) then .ok (Instr.ofCommand cmd (bytes.take len.toNat), rest)
    else .error .badChecksum

/-- Offsets 3 and 4: `len`, at most CAPACITY (R70, R178 (3)), then `cmd`. -/
def decodeLength (capacity : Nat) : List Byte → Except DecodeError (Instr × List Byte)
  | [] => .error .truncated
  | len :: rest =>
    if capacity < len.toNat then .error .oversized
    else match rest with
      | [] => .error .truncated
      | cmd :: rest => decodePayload len cmd rest

/-- Offset 2: the direction byte. -/
def decodeDirection (capacity : Nat) : List Byte → Except DecodeError (Instr × List Byte)
  | [] => .error .truncated
  | b :: rest => if b = inboundArrow then decodeLength capacity rest else .error .badDirection

/-- Offset 1: the protocol letter. -/
def decodeLetter (capacity : Nat) : List Byte → Except DecodeError (Instr × List Byte)
  | [] => .error .truncated
  | b :: rest => if b = protocolLetter then decodeDirection capacity rest else .error .badLetter

/-- One inbound frame (R61) at the head of a byte sequence, with the bytes that follow it. -/
def decodeFrame (capacity : Nat) : List Byte → Except DecodeError (Instr × List Byte)
  | [] => .error .empty
  | b :: rest => if b = startMarker then decodeLetter capacity rest else .error .notStartMarker

/-- The instruction that exactly these bytes are: a single byte as an idle byte, more than one as a frame. -/
def decode : List Byte → Except DecodeError Instr
  | [b] =>
    match decodeIdle Config.rebootChar b with
    | some i => .ok i
    | none => .error .strayByte
  | bytes =>
    match decodeFrame Config.capacity bytes with
    | .ok (i, []) => .ok i
    | .ok (_, _ :: _) => .error .trailing
    | .error e => .error e

/-! ## The encoder -/

/-- The bytes of an instruction, from the same tables of the spec (R61, R67, R69, R101). -/
def encode : Instr → List Byte
  | .status p => inboundFrame 0x65#8 p
  | .rawImu p => inboundFrame 0x66#8 p
  | .motor p => inboundFrame 0x68#8 p
  | .rc p => inboundFrame 0x69#8 p
  | .attitude p => inboundFrame 0x6C#8 p
  | .altitude p => inboundFrame 0x6D#8 p
  | .px4flow p => inboundFrame 0x7D#8 p
  | .mb1242 p => inboundFrame 0x7E#8 p
  | .setRawRc p => inboundFrame 0xC8#8 p
  | .setMotor p => inboundFrame 0xD6#8 p
  | .reboot p => inboundFrame 0x44#8 p
  | .buildInfo p => inboundFrame 0x45#8 p
  | .unknown cmd p => inboundFrame cmd p
  | .start => [startMarker]
  | .noop => [noopByte]
  | .boot => [Config.rebootChar]

/-! ## The opcode table's words -/

/-- The bytes of the row the table's word `b` names, with no payload: a frame for an id the table names, the byte
itself for START, NOOP and BOOT, and a frame (UNKNOWN) for any other. A `REBOOT_CHAR` equal to a named id is read as
the id (log 12). -/
def tableBytes (b : Byte) : List Byte :=
  if b ∈ namedIds then inboundFrame b []
  else if (decodeIdle Config.rebootChar b).isSome then [b]
  else inboundFrame b []

/-- What the decoder reads from a table word. The table gives every row 8 bits: the command id of a frame (its operand
bytes are then absent, `len` = 0), or the idle byte. A word that does not fit in the row's bits is none. -/
def decodeTableWord (nbits w : Nat) : Option Instr :=
  if w < 2 ^ nbits ∧ w < 256 then
    match decode (tableBytes (BitVec.ofNat 8 w)) with
    | .ok i => some i
    | .error _ => none
  else none

end Sys2Proof
end

