-- ==== Sys2Proof/Machine/State.lean ====
section
/-! DEFINITION. The block's state (spec/10_state.md R20), the events at its boundary (R33 to R35), the ways a step can
stop, and the state after reset (spec/70_reset_and_hazards.md R190).
-/

namespace Sys2Proof.Machine

/-- `pstate` (R21): named after the last header field received (R14). -/
inductive ParserState where
  | idle
  | headerStart
  | headerM
  | headerArrow
  | headerSize
  | headerCmd
deriving DecidableEq, Repr, Inhabited

/-- The 3-bit encoding of R21, "used only to print states". -/
def ParserState.code : ParserState → BitVec 3
  | .idle => 0
  | .headerStart => 1
  | .headerM => 2
  | .headerArrow => 3
  | .headerSize => 4
  | .headerCmd => 5

/-- The two modes of a system reset (R31, R35). -/
inductive ResetMode where
  | normal
  | bootloader
deriving DecidableEq, Repr, Inhabited

/-- The silent error classes (a), (b), (c) of spec/60_exceptions.md R170. Class (d) is a reply, not a drop. -/
inductive DropCode where
  /-- (a), code 1: framing desync (R171). -/
  | desync
  /-- (b), code 2: oversized length (R172). -/
  | oversize
  /-- (c), code 3: checksum mismatch (R173). -/
  | checksum
deriving DecidableEq, Repr, Inhabited

/-- The numeric code of R170. -/
def DropCode.number : DropCode → Nat
  | .desync => 1
  | .oversize => 2
  | .checksum => 3

/-- The environment sample of one dispatch (R34): what the collaborators answer. Signed fields are bits (log 14). -/
structure EnvSample where
  cycleTime : Word16
  errCount  : Word16
  /-- In wire order: 3 accelerometer values, then 6 gyro and magnetometer values. -/
  imu       : Vector Word16 9
  motor     : Vector Word16 4
  rc        : Vector Word16 8
  angle     : Vector Word16 2
  heading   : Word16
  altitude  : Word32
  vario     : Word16
  baro      : Word32
  sonar     : Word32
deriving DecidableEq, Repr

/-- The input events (R33). An `Rx` comes with the sample that a dispatch in its step reads (R34 "taken once when the
dispatch begins"; log 2). -/
inductive Event where
  /-- `Invoke(a)`: the scheduler starts a processing cycle with armed mode `a`. -/
  | invoke (armed : Bool)
  /-- `Rx(b)`: the transport delivers one byte. -/
  | rx (b : Byte) (env : EnvSample)
deriving DecidableEq, Repr

/-- The output events (R35). -/
inductive Output where
  /-- One byte written to the transport sink. -/
  | tx (b : Byte)
  /-- The 8 channel values written into the control-input store; also the "new control frame received" flag. -/
  | ctlWrite (v : Vector Word16 8)
  /-- One call of the mixer's per-channel setter. -/
  | motorSet (i : Fin 4) (v : Word16)
  /-- A request for system reset. -/
  | sysResetReq (mode : ResetMode)
  /-- The optional diagnostic of R176. -/
  | dropDiag (code : DropCode)
deriving DecidableEq, Repr

/-- Byte memory: (index, byte) pairs, indices strictly rising. An unlisted index has not been written since reset: it
holds no value of its own, and a read of it draws a free byte (spec/20_memory.md R52; log 3). -/
abbrev Memory := List Host.Cell

/-- The state vector of R20, and below it the model's own fields, which stand for the parameters and results of a step
(logs 1 to 4). -/
structure State where
  /-- Parser state (R21). -/
  pstate     : ParserState
  /-- Checksum accumulator, shared by parser and serializer (R22). -/
  chk        : Byte
  /-- Write index into `buf` (R23). -/
  widx       : Byte
  /-- Read cursor over `buf` (R24). -/
  rcur       : Byte
  /-- Command id of the frame being parsed (R25). -/
  cmd        : Byte
  /-- Declared payload length (R26). -/
  dlen       : Byte
  /-- The payload buffer, indices 0 to CAPACITY-1 (R27). -/
  buf        : Memory
  /-- The pending-reboot flag (R28). -/
  pendReboot : Bool
  /-- The armed mode latched for this invocation (R29). -/
  armed      : Bool
  /-- An Invoke has been accepted since reset (R30). -/
  started    : Bool
  /-- The system reset requested, if any (R31). -/
  halted     : Option ResetMode
  /-- MODEL: the events the environment offers, oldest first (R33, R162; log 1). -/
  inputs     : List Event
  /-- MODEL: the environment sample of the current dispatch (R34; log 2). -/
  env        : EnvSample
  /-- MODEL: how many free bytes have been drawn (R52; log 3). -/
  draws      : Nat
  /-- MODEL: the output trace, oldest first (R35; log 4). -/
  trace      : List Output
deriving DecidableEq, Repr

/-- Why a step does not exist. The block has no traps (spec/60_exceptions.md); each of these is a stuck state. -/
inductive Fault where
  /-- Raised by `step` when no event is offered: the run has ended (spec/43_driver.md R165). Safe. -/
  | noEvent
  /-- Raised by `step` while `halted ≠ None`: "no event has a step" (R31, R164). Safe. -/
  | halted
  /-- Raised by `step` on an `Rx` before the first Invoke: it "has no step" (R30, R161). Safe. -/
  | notStarted
  /-- Raised by the parser's byte store at an index outside 0 to CAPACITY-1, which does not exist
  (spec/20_memory.md R48); no reachable state comes here (R32; log 10). Safe. -/
  | noSuchIndex
  /-- Raised by the parser in HEADER_CMD with `widx` above `dlen`, for which no rule exists; no reachable state comes
  here (R32 (i); log 10). Safe. -/
  | indexPastLength
deriving DecidableEq, Repr

/-- Why an instruction has no meaning. -/
inductive Refusal where
  /-- Raised by `exec` for an instruction the model does not describe yet; none is left. Safe. -/
  | notModelled (mnemonic : String)
deriving DecidableEq, Repr

/-- The sample `env` holds before the first `Rx` (DESIGN CHOICE, log 2: no step reads it, every `Rx` replaces it). -/
def EnvSample.zero : EnvSample where
  cycleTime := 0
  errCount := 0
  imu := Vector.replicate 9 0
  motor := Vector.replicate 4 0
  rc := Vector.replicate 8 0
  angle := Vector.replicate 2 0
  heading := 0
  altitude := 0
  vario := 0
  baro := 0
  sonar := 0

/-- The state after reset (R190; the values are the spec's decision D16, log 8). `buf` lists nothing; `armed` is
"unspecified, never read before the first Invoke": the model names `false` (DESIGN CHOICE, log 7); the model's own fields
start empty (logs 1 to 4). -/
def State.reset : State where
  pstate := .idle
  chk := 0
  widx := 0
  rcur := 0
  cmd := 0
  dlen := 0
  buf := []
  pendReboot := false
  armed := false
  started := false
  halted := none
  inputs := []
  env := EnvSample.zero
  draws := 0
  trace := []

end Sys2Proof.Machine
end

