-- ==== Sys2Proof/Machine/Flags.lean ====
section
/-! DEFINITION. The block's status bits (spec/10_state.md R28 to R31) and the checksum accumulator's two updates (R22).
The block has no arithmetic condition codes.
-/

namespace Sys2Proof.Machine

/-- `pend_reboot <- 1` (R141); nothing clears it but reset (R28). -/
def setPendReboot (s : State) : State := { s with pendReboot := true }

/-- An Invoke is accepted: `armed <- a`, `started <- 1` (R160). -/
def latchArmed (a : Bool) (s : State) : State := { s with armed := a, started := true }

/-- `chk <- 0x00` (R84, R111). -/
def clearChk (s : State) : State := { s with chk := 0 }

/-- `chk <- chk ^ b` (R80, R111 to R113). -/
def xorChk (b : Byte) (s : State) : State := { s with chk := s.chk ^^^ b }

/-- `pstate <- p`. -/
def goto (p : ParserState) (s : State) : State := { s with pstate := p }

end Sys2Proof.Machine
end

