-- ==== Sys2Proof/Machine/Ops.lean ====
section
/-! DEFINITION. The shared operations: the payload buffer (spec/20_memory.md), the output trace (spec/10_state.md R35),
and what an error or a reset request does (spec/60_exceptions.md R175, R176, R179; the block has no return, R180).
-/

namespace Sys2Proof.Machine

/-! ## Byte memory -/

/-- The canonical form: indices strictly rising. An unlisted index reads as no value, so no entry can equal it. -/
def Memory.wf : Memory → Bool
  | [] => true
  | [_] => true
  | a :: b :: rest => decide (a.1 < b.1) && Memory.wf (b :: rest)

/-- The byte last written at an index, or none if it was never written (R52). -/
def Memory.read : Memory → Nat → Option Byte
  | [], _ => none
  | c :: rest, i => if c.1 = i then some c.2 else Memory.read rest i

/-- Write one byte, keeping the canonical form. -/
def Memory.write : Memory → Nat → Byte → Memory
  | [], i, b => [(i, b)]
  | c :: rest, i, b =>
    if i < c.1 then (i, b) :: c :: rest
    else if i = c.1 then (i, b) :: rest
    else c :: Memory.write rest i b

/-- The bytes written at indices 0 to n-1, in order. -/
def Memory.firstBytes (m : Memory) (n : Nat) : List Byte := (List.range n).filterMap m.read

/-! ## Output -/

/-- `Out(e)` of R13: append an output event to the trace. -/
def out (e : Output) (s : State) : State := { s with trace := s.trace ++ [e] }

/-- `Emit(b)` of R13: append `Tx(b)`; it always succeeds (R35). -/
def emit (b : Byte) (s : State) : State := out (.tx b) s

/-! ## Errors and reset requests -/

/-- What `raise Drop(code)` may append: the optional diagnostic, if this block has it (R13, R176; log 6). -/
def dropEvents (code : DropCode) : List Output := if Config.dropDiag then [.dropDiag code] else []

/-- A silent error (R171 to R173, R179): `pstate <- IDLE`, then `raise Drop(code)`. Nothing is saved and nothing else
changes; the next byte is parsed from IDLE. -/
def raiseDrop (code : DropCode) (s : State) : State :=
  { s with pstate := .idle, trace := s.trace ++ dropEvents code }

/-- `SysReset(mode)` of R13 and R175: `Out(SysResetReq(mode))`, `halted <- mode`. -/
def sysReset (mode : ResetMode) (s : State) : State := { out (.sysResetReq mode) s with halted := some mode }

/-- The external system reset (R190, R193): every field of R20 as after reset. The events still offered and the trace
are the environment's and stay; the count of free bytes goes on. No step calls it (log 15). -/
def hostReset (s : State) : State :=
  { State.reset with inputs := s.inputs, env := s.env, draws := s.draws, trace := s.trace }

/-! ## Outcomes -/

/-- Go on after a step's first part: change the next state, keep a stop. -/
def thenState (o : Host.Outcome State Fault Refusal) (f : State → State) : Host.Outcome State Fault Refusal :=
  match o with
  | .next s => .next (f s)
  | .fault r => .fault r
  | .refused r => .refused r

end Sys2Proof.Machine
end

