-- ==== Sys2Proof/Machine/Operands.lean ====
section
/-! DEFINITION. How a handler reads its payload operands: the accessors at the read cursor (spec/40_serializer.md R87 to
R89), and the byte order of a multi-byte value (spec/20_memory.md R41, R43).
-/

namespace Sys2Proof.Machine

/-! ## Byte order -/

/-- `hi ++ lo` of R88: two bytes, low byte first. -/
def word16Of (lo hi : Byte) : Word16 := hi ++ lo

/-- `b3 ++ b2 ++ b1 ++ b0` of R89. -/
def word32Of (b0 b1 b2 b3 : Byte) : Word32 := (b3 ++ b2) ++ (b1 ++ b0)

/-- Byte `i` of a value, `v[8i+7:8i]` (R43). -/
def byteOf {w : Nat} (v : BitVec w) (i : Nat) : Byte := v.extractLsb' (8 * i) 8

/-! ## Accessors -/

/-- The byte the cursor points at: the current content of `buf[rcur]`, even past the declared length, or a free byte
if it has not been written since reset (R52, R87, R144). -/
def cursorByte (s : State) : Byte := (s.buf.read s.rcur.toNat).getD (Config.freeByte s.draws)

/-- Whether the byte the cursor points at must be drawn. -/
def cursorUnwritten (s : State) : Bool := (s.buf.read s.rcur.toNat).isNone

/-- The cursor moves by one; a draw is used up if there was one, so that every read draws afresh (R52). -/
def advanceCursor (s : State) : State :=
  { s with rcur := s.rcur + 1, draws := s.draws + (cursorUnwritten s).toNat }

/-- `read8()` (R87). -/
def read8 (s : State) : Byte × State := (cursorByte s, advanceCursor s)

/-- `read16()` (R88): low byte first. -/
def read16 (s : State) : Word16 × State :=
  let lo := read8 s
  let hi := read8 lo.2
  (word16Of lo.1 hi.1, hi.2)

/-- `read32()` (R89): low byte first. No handler uses it (D28). -/
def read32 (s : State) : Word32 × State :=
  let b0 := read8 s
  let b1 := read8 b0.2
  let b2 := read8 b1.2
  let b3 := read8 b2.2
  (word32Of b0.1 b1.1 b2.1 b3.1, b3.2)

/-- `for i in 0..n-1: v[i] <- read16()` (R139). -/
def readShorts : (n : Nat) → State → Vector Word16 n × State
  | 0, s => (#v[], s)
  | n + 1, s =>
    let vs := readShorts n s
    let v := read16 vs.2
    (vs.1.push v.1, v.2)

end Sys2Proof.Machine
end

