-- ==== Sys2Proof/Machine/Serializer.lean ====
section
/-! DEFINITION. The byte serializer and the reply framing (spec/40_serializer.md R80 to R86). Every operation is total
(R90).
-/

namespace Sys2Proof.Machine

/-- `writeByte(v)` (R80). -/
def writeByte (v : Byte) (s : State) : State := xorChk v (emit v s)

/-- `writeShort(v)` (R81): low byte first. -/
def writeShort (v : Word16) (s : State) : State := writeByte (byteOf v 1) (writeByte (byteOf v 0) s)

/-- `writeLong(v)` (R82): low byte first. -/
def writeLong (v : Word32) (s : State) : State :=
  writeByte (byteOf v 3) (writeByte (byteOf v 2) (writeByte (byteOf v 1) (writeByte (byteOf v 0) s)))

/-- `writeBuffer(p, n)` (R83), `n` being the length of `p`. -/
def writeBuffer : List Byte → State → State
  | [], s => s
  | b :: rest, s => writeBuffer rest (writeByte b s)

/-- `writeShort` of each value in order: the handlers' `for i in a..b: writeShort(v[i])`. -/
def writeShorts : List Word16 → State → State
  | [], s => s
  | v :: rest, s => writeShorts rest (writeShort v s)

/-- `headReply(ok, n)` (R84): three header bytes, then the accumulator is cleared, then length and command id. -/
def headReply (ok : Bool) (n : Byte) (s : State) : State :=
  let h := clearChk (writeByte (statusByte ok) (writeByte protocolLetter (writeByte startMarker s)))
  writeByte h.cmd (writeByte n h)

/-- `tailReply()` (R85): the accumulator through `writeByte`, which leaves 0. -/
def tailReply (s : State) : State := writeByte s.chk s

/-- `Reply(ok, n, body)` (R86). -/
def reply (ok : Bool) (n : Byte) (body : State → State) (s : State) : State := tailReply (body (headReply ok n s))

end Sys2Proof.Machine
end

