-- ==== Sys2Proof/Machine/Telemetry.lean ====
section
/-! DEFINITION. The outbound telemetry handlers (spec/42_dispatch.md R131 to R138, R142), and the start of a dispatch
(R130). They read no payload.
-/

namespace Sys2Proof.Machine

/-- The start of every dispatch (R130): `rcur <- 0`. The environment sample is the one in `env`, which the step took
from its event (log 2). -/
def beginDispatch (s : State) : State := { s with rcur := 0 }

/-- STATUS (R131): cycle time, error count, then u16 0, u32 0 and u8 0. -/
def execStatus (s : State) : Host.Outcome State Fault Refusal :=
  .next (reply true 11#8
    (fun t => writeByte 0 (writeLong 0 (writeShort 0 (writeShort s.env.errCount (writeShort s.env.cycleTime t)))))
    (beginDispatch s))

/-- The 9 values RAW_IMU sends (R132): the 3 accelerometer values scaled, the other 6 as they are. -/
def imuValues (scale : Word16 → Word16) (imu : Vector Word16 9) : List Word16 :=
  [scale imu[0], scale imu[1], scale imu[2], imu[3], imu[4], imu[5], imu[6], imu[7], imu[8]]

/-- RAW_IMU's reply for a given ACC_SCALE (R9, R132). -/
def rawImuReply (scale : Word16 → Word16) (s : State) : State :=
  reply true 18#8 (writeShorts (imuValues scale s.env.imu)) (beginDispatch s)

/-- RAW_IMU (R132), with this block's ACC_SCALE. -/
def execRawImu (s : State) : Host.Outcome State Fault Refusal := .next (rawImuReply Config.accScale s)

/-- MOTOR (R133). -/
def execMotor (s : State) : Host.Outcome State Fault Refusal :=
  .next (reply true 8#8 (writeShorts s.env.motor.toList) (beginDispatch s))

/-- RC (R134). -/
def execRc (s : State) : Host.Outcome State Fault Refusal :=
  .next (reply true 16#8 (writeShorts s.env.rc.toList) (beginDispatch s))

/-- ATTITUDE (R135): the two angles, then the heading. -/
def execAttitude (s : State) : Host.Outcome State Fault Refusal :=
  .next (reply true 6#8 (writeShorts [s.env.angle[0], s.env.angle[1], s.env.heading]) (beginDispatch s))

/-- ALTITUDE (R136). -/
def execAltitude (s : State) : Host.Outcome State Fault Refusal :=
  .next (reply true 6#8 (fun t => writeShort s.env.vario (writeLong s.env.altitude t)) (beginDispatch s))

/-- MB1242 (R138). -/
def execMb1242 (s : State) : Host.Outcome State Fault Refusal :=
  .next (reply true 8#8 (fun t => writeLong s.env.sonar (writeLong s.env.baro t)) (beginDispatch s))

/-- A reply with no payload, `Reply(ok, 0, -)` (R86). -/
def emptyReply (ok : Bool) (s : State) : State := reply ok 0 id s

/-- Whether id 125 gets a success reply, for a given PX4FLOW_MODE (R10, R137). -/
def px4flowOk : Px4flowMode → Bool
  | .unregistered => false
  | .okEmpty => true

/-- PX4FLOW (R137): the UNKNOWN handler's reply, or an empty success reply, by PX4FLOW_MODE. -/
def execPx4flow (s : State) : Host.Outcome State Fault Refusal :=
  .next (emptyReply (px4flowOk Config.px4flowMode) (beginDispatch s))

/-- BUILDINFO's reply for a given BUILD_DATE (R8, R142): the date, then two zero longs. -/
def buildInfoReply (date : Vector Byte 11) (s : State) : State :=
  reply true 19#8 (fun t => writeLong 0 (writeLong 0 (writeBuffer date.toList t))) (beginDispatch s)

/-- BUILDINFO (R142), with this block's BUILD_DATE. -/
def execBuildInfo (s : State) : Host.Outcome State Fault Refusal := .next (buildInfoReply Config.buildDate s)

end Sys2Proof.Machine
end

