-- ==== Sys2Proof/Machine/Control.lean ====
section
/-! DEFINITION. The inbound control handlers (spec/42_dispatch.md R139 to R141) and the default arm (R143). A handler
reads its fixed count from index 0, whatever the declared length (R144).
-/

namespace Sys2Proof.Machine

/-- SET_RAW_RC (R139): 8 values, `CtlWrite`, then the reply. -/
def execSetRawRc (s : State) : Host.Outcome State Fault Refusal :=
  let r := readShorts 8 (beginDispatch s)
  .next (emptyReply true (out (.ctlWrite r.1) r.2))

/-- One turn of SET_MOTOR's loop (R140): `v <- read16(); Out(MotorSet(i, v))`. -/
def setMotorChannel (i : Fin 4) (s : State) : State :=
  let r := read16 s
  out (.motorSet i r.1) r.2

/-- SET_MOTOR (R140): channels 0 to 3 in order, then the reply. -/
def execSetMotor (s : State) : Host.Outcome State Fault Refusal :=
  .next (emptyReply true
    (setMotorChannel 3 (setMotorChannel 2 (setMotorChannel 1 (setMotorChannel 0 (beginDispatch s))))))

/-- REBOOT (R141): the reply, then `pend_reboot <- 1`. -/
def execReboot (s : State) : Host.Outcome State Fault Refusal :=
  .next (setPendReboot (emptyReply true (beginDispatch s)))

/-- UNKNOWN (R143): the error reply, which echoes the id (R84). -/
def execUnknown (s : State) : Host.Outcome State Fault Refusal := .next (emptyReply false (beginDispatch s))

end Sys2Proof.Machine
end

