-- ==== Sys2Proof/Machine/IdleBytes.lean ====
section
/-! DEFINITION. The single bytes obeyed in IDLE (spec/41_parser.md R101 to R104). The parser decodes them only in IDLE;
the armed mode is checked here (R69, R181; log 11).
-/

namespace Sys2Proof.Machine

/-- START (R101): `pstate <- HEADER_START`, in either armed mode. -/
def execStart (s : State) : Host.Outcome State Fault Refusal := .next (goto .headerStart s)

/-- NOOP (R103): no output, no state change. Armed, the byte is ignored (R102), which is the same. -/
def execNoop (s : State) : Host.Outcome State Fault Refusal := .next s

/-- BOOT (R104): unarmed, an immediate `SysReset(Bootloader)`; armed, the byte is ignored (R102). -/
def execBoot (s : State) : Host.Outcome State Fault Refusal :=
  if s.armed then .next s else .next (sysReset .bootloader s)

end Sys2Proof.Machine
end

