-- ==== Sys2Proof/Machine/Dispatch.lean ====
section
/-! DEFINITION. The dispatch table (spec/42_dispatch.md R130; spec/30_encoding.md R69): one arm per instruction. A frame's
payload stands in `buf` when its handler runs (spec/41_parser.md R113), so no arm passes it on (log 11).
-/

namespace Sys2Proof.Machine

def exec (i : Instr) (s : State) : Host.Outcome State Fault Refusal :=
  match i with
  | .status _ => Sys2Proof.Machine.execStatus s
  | .rawImu _ => Sys2Proof.Machine.execRawImu s
  | .motor _ => Sys2Proof.Machine.execMotor s
  | .rc _ => Sys2Proof.Machine.execRc s
  | .attitude _ => Sys2Proof.Machine.execAttitude s
  | .altitude _ => Sys2Proof.Machine.execAltitude s
  | .px4flow _ => Sys2Proof.Machine.execPx4flow s
  | .mb1242 _ => Sys2Proof.Machine.execMb1242 s
  | .setRawRc _ => Sys2Proof.Machine.execSetRawRc s
  | .setMotor _ => Sys2Proof.Machine.execSetMotor s
  | .reboot _ => Sys2Proof.Machine.execReboot s
  | .buildInfo _ => Sys2Proof.Machine.execBuildInfo s
  | .unknown _ _ => Sys2Proof.Machine.execUnknown s
  | .start => Sys2Proof.Machine.execStart s
  | .noop => Sys2Proof.Machine.execNoop s
  | .boot => Sys2Proof.Machine.execBoot s

end Sys2Proof.Machine
end

