-- ==== Sys2Proof/Machine/Parser.lean ====
section
/-! DEFINITION. The frame parser, `parse(b)` (spec/41_parser.md R100 to R115): one definition per parser state. A parameter
the spec's vectors vary (CAPACITY, REBOOT_CHAR) is an argument of the definition that uses it; `parse` passes the
block's own.
-/

namespace Sys2Proof.Machine

/-- IDLE (R101 to R105): a byte that stands for an instruction runs it; any other byte is consumed and changes
nothing. -/
def parseIdle (rebootChar b : Byte) (s : State) : Host.Outcome State Fault Refusal :=
  match decodeIdle rebootChar b with
  | some i => exec i s
  | none => .next s

/-- HEADER_START (R106, R107). -/
def parseLetter (b : Byte) (s : State) : State :=
  if b = protocolLetter then goto .headerM s else raiseDrop .desync s

/-- HEADER_M (R108, R109). -/
def parseDirection (b : Byte) (s : State) : State :=
  if b = inboundArrow then goto .headerArrow s else raiseDrop .desync s

/-- HEADER_ARROW, an accepted length (R111). -/
def acceptLength (b : Byte) (s : State) : State :=
  goto .headerSize (xorChk b (clearChk { s with dlen := b, widx := 0 }))

/-- HEADER_ARROW (R110, R111): the capacity test, unsigned. -/
def parseLength (capacity : Nat) (b : Byte) (s : State) : State :=
  if capacity < b.toNat then raiseDrop .oversize s else acceptLength b s

/-- HEADER_SIZE (R112). -/
def parseId (b : Byte) (s : State) : State := goto .headerCmd { xorChk b s with cmd := b }

/-- HEADER_CMD, collecting (R113). An index outside the buffer does not exist (R48; log 10). -/
def storePayload (capacity : Nat) (b : Byte) (s : State) : Host.Outcome State Fault Refusal :=
  if s.widx.toNat < capacity then
    .next { xorChk b s with buf := s.buf.write s.widx.toNat b, widx := s.widx + 1 }
  else .fault .noSuchIndex

/-- The payload of the frame being parsed, as the buffer holds it. -/
def framePayload (s : State) : List Byte := s.buf.firstBytes s.dlen.toNat

/-- `dispatch(cmd)` (R130), then `pstate <- IDLE` (R114). -/
def dispatch (s : State) : Host.Outcome State Fault Refusal :=
  thenState (exec (Instr.ofCommand s.cmd (framePayload s)) s) (goto .idle)

/-- HEADER_CMD, complete: the trailing checksum (R114, R115). The checksum is compared before the id is looked up
(R178 (4)). -/
def parseChecksum (b : Byte) (s : State) : Host.Outcome State Fault Refusal :=
  if b = s.chk then dispatch s else .next (raiseDrop .checksum s)

/-- HEADER_CMD (R113 to R115): collecting while `widx < dlen`, complete when `widx = dlen` (R21); there is no rule for
`widx > dlen` (log 10). -/
def parseBody (capacity : Nat) (b : Byte) (s : State) : Host.Outcome State Fault Refusal :=
  if s.widx < s.dlen then storePayload capacity b s
  else if s.widx = s.dlen then parseChecksum b s
  else .fault .indexPastLength

/-- `parse(b)` (R100, R116). -/
def parse (b : Byte) (s : State) : Host.Outcome State Fault Refusal :=
  match s.pstate with
  | .idle => parseIdle Config.rebootChar b s
  | .headerStart => .next (parseLetter b s)
  | .headerM => .next (parseDirection b s)
  | .headerArrow => .next (parseLength Config.capacity b s)
  | .headerSize => .next (parseId b s)
  | .headerCmd => parseBody Config.capacity b s

end Sys2Proof.Machine
end

