-- ==== Sys2Proof/Machine/Driver.lean ====
section
/-! DEFINITION. The port driver (spec/43_driver.md): the two input events, and how an instruction of the opcode table is
brought to its step.
-/

namespace Sys2Proof.Machine

/-- `Invoke(a)` (R160): a pending reboot is taken before anything else (R178 (1)). -/
def invoke (a : Bool) (s : State) : State :=
  if s.pendReboot then sysReset .normal s else latchArmed a s

/-- An event is consumed: it leaves the input stream (R47). -/
def consume (rest : List Event) (s : State) : State := { s with inputs := rest }

/-- The sample that comes with an `Rx` (R34). -/
def sample (env : EnvSample) (s : State) : State := { s with env := env }

/-- `Rx(b)` (R161): it has no step before the first Invoke. -/
def receive (b : Byte) (s : State) : Host.Outcome State Fault Refusal :=
  if s.started then parse b s else .fault .notStarted

/-- One event (R33). -/
def handle (e : Event) (s : State) : Host.Outcome State Fault Refusal :=
  match e with
  | .invoke a => .next (invoke a s)
  | .rx b env => receive b (sample env s)

/-- One step (R5): consume the oldest event offered. Halted, no event has a step (R164); with no event, none either
(R165). -/
def driverStep (s : State) : Host.Outcome State Fault Refusal :=
  match s.halted with
  | some _ => .fault .halted
  | none =>
    match s.inputs with
    | [] => .fault .noEvent
    | e :: rest => handle e (consume rest s)

/-- `Cycle(a, bs)` (R166) as the events it is shorthand for, every byte with the same sample. -/
def cycleEvents (a : Bool) (bs : List Byte) (env : EnvSample) : List Event :=
  .invoke a :: bs.map fun b => .rx b env

/-- The state after the last event accepted, of at most `k`: with its trace, the result of a run (R165). It stops at the
first event that has no step (R166). -/
def endOfRun : Nat → State → State
  | 0, s => s
  | k + 1, s =>
    match driverStep s with
    | .next t => endOfRun k t
    | .fault _ => s
    | .refused _ => s

/-! ## Bringing a table row to its step (log 13) -/

/-- The parser in IDLE, in an invocation, with the byte offered next. -/
def offerIdleByte (b : Byte) (s : State) : State :=
  { s with pstate := .idle, started := true, halted := none, inputs := .rx b s.env :: s.inputs }

/-- The parser at the end of a frame with no payload: everything but its checksum byte has been received, as R111 and
R112 leave it, and that byte is offered next. -/
def offerFrame (cmd : Byte) (s : State) : State :=
  { s with
    pstate := .headerCmd, dlen := 0, widx := 0, cmd := cmd, chk := frameChecksum cmd [],
    started := true, halted := none, inputs := .rx (frameChecksum cmd []) s.env :: s.inputs }

/-- Whether an instruction is a single byte read in IDLE. -/
def isIdleByte : Instr → Bool
  | .start => true
  | .noop => true
  | .boot => true
  | .status _ => false
  | .rawImu _ => false
  | .motor _ => false
  | .rc _ => false
  | .attitude _ => false
  | .altitude _ => false
  | .px4flow _ => false
  | .mb1242 _ => false
  | .setRawRc _ => false
  | .setMotor _ => false
  | .reboot _ => false
  | .buildInfo _ => false
  | .unknown _ _ => false

/-- Offer a table word so that the next step runs the instruction the decoder reads from it; a word that is no
instruction changes nothing. -/
def offerTableWord (s : State) (nbits w : Nat) : State :=
  match decodeTableWord nbits w with
  | some i => if isIdleByte i then offerIdleByte (BitVec.ofNat 8 w) s else offerFrame (BitVec.ofNat 8 w) s
  | none => s

end Sys2Proof.Machine
end

