-- ==== Sys2Proof/Machine/Step.lean ====
section
/-! DEFINITION. The step, and the state in which the next step runs a given table row. -/

namespace Sys2Proof.Machine

/-- One step of the block: one input event (spec/00_scope.md R5). -/
def step (s : State) : Host.Outcome State Fault Refusal := driverStep s

/-- `s` with the table row's instruction offered next (log 13). -/
def State.withFetchWord (s : State) (nbits w : Nat) : State := offerTableWord s nbits w

end Sys2Proof.Machine
end

