-- ==== Sys2Proof/WellFormed.lean ====
section
/-! DEFINITION. Which terms of `Instr` stand for an instruction that can be sent (spec/30_encoding.md R61, R67, R70). -/

namespace Sys2Proof

/-- A payload an inbound frame may carry: `len` ≤ CAPACITY (R61, R70). -/
def payloadFits (payload : List Byte) : Bool := payload.length ≤ Config.capacity

/-- A frame's payload fits; UNKNOWN's id is none of the 12 named ids (R67, R68). The single bytes have no operand. -/
def Instr.wf : Instr → Bool
  | .status p => payloadFits p
  | .rawImu p => payloadFits p
  | .motor p => payloadFits p
  | .rc p => payloadFits p
  | .attitude p => payloadFits p
  | .altitude p => payloadFits p
  | .px4flow p => payloadFits p
  | .mb1242 p => payloadFits p
  | .setRawRc p => payloadFits p
  | .setMotor p => payloadFits p
  | .reboot p => payloadFits p
  | .buildInfo p => payloadFits p
  | .unknown cmd p => !namedIds.contains cmd && payloadFits p
  | .start => true
  | .noop => true
  | .boot => true

end Sys2Proof
end

