-- ==== Sys2Proof/Safety.lean ====
section
/-! DEFINITION. What claims about the block are stated in terms of: the invariant of every run (spec/10_state.md R32), the
conditions under which an event has a step, and the spec's own description of bytes on the wire.
-/

namespace Sys2Proof.Machine

/-! ## The invariant -/

/-- What holds in every reachable state (R32, and what R22 to R31 say of each field's use). -/
structure State.Inv (s : State) : Prop where
  /-- The buffer keeps its canonical form. -/
  bufCanonical : s.buf.wf = true
  /-- R23, R48: "bytes beyond capacity are never written". -/
  bufInRange : ∀ c ∈ s.buf, c.1 < Config.capacity
  /-- R32 (i). -/
  widxLe : s.widx ≤ s.dlen
  /-- R26, R32 (i). -/
  dlenLe : s.dlen.toNat ≤ Config.capacity
  /-- Before the command id, the accumulator holds the length (R111). -/
  sizeChk : s.pstate = .headerSize → s.widx = 0 ∧ s.chk = s.dlen
  /-- In HEADER_CMD the payload bytes counted by `widx` have been stored (R113). -/
  collected : s.pstate = .headerCmd → ∀ i, i < s.widx.toNat → (s.buf.read i).isSome
  /-- In HEADER_CMD the accumulator is the XOR of length, id and the payload received (R62, R111 to R113). -/
  cmdChk : s.pstate = .headerCmd → s.chk = s.dlen ^^^ s.cmd ^^^ xorAll (s.buf.firstBytes s.widx.toNat)
  /-- Before the first Invoke nothing has happened (R30). -/
  idleBeforeStart : s.started = false → s.pstate = .idle ∧ s.pendReboot = false ∧ s.halted = none
  /-- A Normal reset is only the deferred reboot (R160, R175). -/
  normalReset : s.halted = some .normal → s.pendReboot = true
  /-- A Bootloader reset is only taken in IDLE while unarmed (R104, R175). -/
  bootReset : s.halted = some .bootloader → s.pstate = .idle ∧ s.armed = false

/-! ## When an event has a step -/

/-- The next event is `Rx(b)` with sample `env`, and it has a step (R161). -/
structure State.Receives (s : State) (b : Byte) (env : EnvSample) (rest : List Event) : Prop where
  running : s.halted = none
  started : s.started = true
  offered : s.inputs = .rx b env :: rest

/-- The state in which the parser meets that byte: the event consumed, the sample taken. -/
def State.taking (s : State) (env : EnvSample) (rest : List Event) : State := { s with inputs := rest, env := env }

/-- The byte is the trailing checksum of a complete frame and matches (R114). -/
structure State.CompletesFrame (s : State) (b : Byte) : Prop where
  inCmd : s.pstate = .headerCmd
  complete : s.widx = s.dlen
  matching : b = s.chk

/-- An instruction that arrives as a frame. -/
def isFrame (i : Instr) : Bool := !isIdleByte i

/-! ## Bytes on the wire -/

/-- A 16-bit value as bytes, `v[7:0]`, `v[15:8]` (R43). -/
def le16 (v : Word16) : List Byte := [v.setWidth 8, (v >>> 8).setWidth 8]

/-- A 32-bit value as bytes, `v[7:0]` to `v[31:24]` (R43). -/
def le32 (v : Word32) : List Byte := [v.setWidth 8, (v >>> 8).setWidth 8, (v >>> 16).setWidth 8, (v >>> 24).setWidth 8]

/-- One `Tx` event per byte. -/
def txs (bs : List Byte) : List Output := bs.map .tx

/-- `s` after a dispatch that did nothing but answer with one reply: the cursor is at 0 (R130), the accumulator is 0
(R85) and the reply frame is on the trace (R63). -/
def State.replied (s : State) (ok : Bool) (payload : List Byte) : State :=
  { s with rcur := 0, chk := 0, trace := s.trace ++ txs (replyFrame ok s.cmd payload) }

/-- The bytes of the frame being parsed that the parser has taken so far, in HEADER_CMD. -/
def State.receivedBytes (s : State) : List Byte :=
  [0x24#8, 0x4D#8, 0x3C#8, s.dlen, s.cmd] ++ s.buf.firstBytes s.widx.toNat

/-! ## The payload as a handler reads it -/

/-- How many of the `k` indices from `start` on have not been written since reset. -/
def State.unwrittenFrom (s : State) (start k : Nat) : Nat :=
  ((List.range k).filter fun j => (s.buf.read (start + j)).isNone).length

/-- What successive reads from index `start` on get at index `start + k`: the byte there, even a stale one (R52, R144),
or, if it has not been written since reset, the free byte whose turn it is. -/
def State.byteFrom (s : State) (start k : Nat) : Byte :=
  (s.buf.read (start + k)).getD (Config.freeByte (s.draws + s.unwrittenFrom start k))

/-- What a handler that reads its payload from index 0 on gets at index `k` (R130, R144). -/
def State.payloadByte (s : State) (k : Nat) : Byte := s.byteFrom 0 k

/-- The 16-bit value at indices `k` and `k+1`, low byte first (R43). -/
def State.payloadShort (s : State) (k : Nat) : Word16 := s.payloadByte (k + 1) ++ s.payloadByte k

/-- How many payload bytes the handler of an instruction reads (R139, R140; R67 "inbound payload read"). -/
def bytesRead (i : Instr) : Nat :=
  match i with
  | .setRawRc _ => 16
  | .setMotor _ => 8
  | _ => 0

/-! ## The parser's table -/

/-- The last column of the table of R116. On its row "(halted)", REBOOT_CHAR in IDLE while unarmed, `pstate` stays IDLE:
R104 does not write it. -/
def nextParserState (s : State) (b : Byte) : ParserState :=
  match s.pstate with
  | .idle => if b = 0x24#8 then .headerStart else .idle
  | .headerStart => if b = 0x4D#8 then .headerM else .idle
  | .headerM => if b = 0x3C#8 then .headerArrow else .idle
  | .headerArrow => if Config.capacity < b.toNat then .idle else .headerSize
  | .headerSize => .headerCmd
  | .headerCmd => if s.widx < s.dlen then .headerCmd else .idle

/-! ## Frames spread over invocations -/

/-- The bytes that a list of events delivers. -/
def rxBytes : List Event → List Byte
  | [] => []
  | .invoke _ :: rest => rxBytes rest
  | .rx b _ :: rest => b :: rxBytes rest

/-- The armed mode after a list of events, none of which takes a pending reboot (R160). -/
def armedAfter (a : Bool) : List Event → Bool
  | [] => a
  | .invoke a' :: rest => armedAfter a' rest
  | .rx _ _ :: rest => armedAfter a rest

/-- Bytes stored at consecutive indices from `i` on. -/
def storeBytes (m : Memory) (i : Nat) : List Byte → Memory
  | [] => m
  | b :: rest => storeBytes (m.write i b) (i + 1) rest

/-- `s` when the trailing checksum byte of the frame `FRAME(cmd, payload)` has just matched, its payload in the buffer
from index 0 on (R111 to R114). -/
def State.loadedWith (s : State) (cmd : Byte) (payload : List Byte) : State :=
  { s with
    pstate := .headerCmd, dlen := BitVec.ofNat 8 payload.length, widx := BitVec.ofNat 8 payload.length, cmd := cmd,
    chk := frameChecksum cmd payload, buf := storeBytes s.buf 0 payload }

/-! ## What cannot be observed -/

/-- Two states that agree on everything the rules of R190 call observable: `rcur` is never compared, `chk`, `widx` and
`dlen` only where the parser will still read them, `cmd` only in HEADER_CMD, `armed` only after an Invoke, and the sample
never, since every `Rx` brings its own. -/
structure State.ObsEq (s t : State) : Prop where
  pstate : s.pstate = t.pstate
  buf : s.buf = t.buf
  pendReboot : s.pendReboot = t.pendReboot
  started : s.started = t.started
  armed : s.started = true → s.armed = t.armed
  halted : s.halted = t.halted
  inputs : s.inputs = t.inputs
  draws : s.draws = t.draws
  trace : s.trace = t.trace
  length : s.pstate = .headerSize ∨ s.pstate = .headerCmd → s.chk = t.chk ∧ s.widx = t.widx ∧ s.dlen = t.dlen
  cmd : s.pstate = .headerCmd → s.cmd = t.cmd

/-- Two outcomes of one step that cannot be told apart. -/
def OutcomesObsEq (o p : Host.Outcome State Fault Refusal) : Prop :=
  match o, p with
  | .next s, .next t => s.ObsEq t
  | .fault r, .fault q => r = q
  | .refused r, .refused q => r = q
  | _, _ => False

end Sys2Proof.Machine
end

