-- ==== Sys2Proof/Certificates/Slice0/Obligations.lean ====
section
/-! DEFINITION. The statements about the block, one per obligation of OBLIGATIONS.json.

The model's own fields `inputs` and `env` change at every `Rx` as `State.taking` says: the event is consumed and its
sample taken (logs 1, 2). A silent error appends the diagnostic only in a block that has it (R176; log 6). A
decision D<n> or resolution C<n> named below is the spec's own choice, which the model follows (log 8).
-/

open Sys2Proof Sys2Proof.Machine

/-! ## Reset and the invariant -/

/-- R190: every field of R20 that has a reset value is at it, at power-on (`State.reset`) and after the external reset of
any state; no buffer byte counts as written. `armed` is unspecified and not stated. The values are the spec's own choice
(D16). -/
def Obligations.ResetLeavesSpecValues : Prop :=
  ∀ s r : State, r = State.reset ∨ r = hostReset s →
    r.pstate = .idle ∧ r.chk = 0x00#8 ∧ r.widx = 0#8 ∧ r.rcur = 0#8 ∧ r.cmd = 0x00#8 ∧ r.dlen = 0#8 ∧
    r.pendReboot = false ∧ r.started = false ∧ r.halted = none ∧ ∀ i, r.buf.read i = none

/-- The invariant of R32 holds at reset, so its premises can be met. -/
def Obligations.InvariantHoldsAtReset : Prop := State.reset.Inv

/-- R32 and what R22 to R31 say of each field: every step from a state that meets the invariant ends in one that does. -/
def Obligations.StepKeepsInvariant : Prop :=
  ∀ s t : State, s.Inv → step s = .next t → t.Inv

/-- R32, R162: whatever events the environment offers, every state a run from reset comes to meets the invariant. -/
def Obligations.RunsFromResetMeetInvariant : Prop :=
  ∀ (events : List Event) (k : Nat) (t : State),
    Host.Core.run core k { State.reset with inputs := events } = .next t → t.Inv

/-- R23 "bytes beyond capacity are never written", R48 "every read is in range", R90: under the invariant a step never
stores outside the buffer, never meets `widx > dlen`, and no instruction is refused. -/
def Obligations.NoOverrunUnderInvariant : Prop :=
  ∀ s : State, s.Inv →
    step s ≠ .fault .noSuchIndex ∧ step s ≠ .fault .indexPastLength ∧ ∀ r, step s ≠ .refused r

/-! ## Encoding -/

/-- R61, R62, R67, R69: every well-formed instruction, with every payload its frame can carry, is decoded from its own
bytes. -/
def Obligations.DecodeOfEncode : Prop :=
  ∀ i : Instr, i.wf = true → decode (encode i) = .ok i

/-- R61, R62, R67, R70: whatever bytes the decoder accepts are the encoding of the instruction it answers, which is well
formed. -/
def Obligations.EncodeOfDecode : Prop :=
  ∀ (bytes : List Byte) (i : Instr), decode bytes = .ok i → i.wf = true ∧ encode i = bytes

/-- Words written out from the spec (95_test_vectors.md L1.1, L1.2, D.12, D.16, L1.3; R101) decode to the instructions they
stand for. -/
def Obligations.SpecWordsDecode : Prop :=
  decode [0x24#8, 0x4D#8, 0x3C#8, 0x00#8, 0x65#8, 0x65#8] = .ok (.status []) ∧
  decode ([0x24#8, 0x4D#8, 0x3C#8, 0x10#8, 0xC8#8] ++
      [0xDC#8, 0x05#8, 0xDC#8, 0x05#8, 0xDC#8, 0x05#8, 0xDC#8, 0x05#8] ++
      [0xDC#8, 0x05#8, 0xDC#8, 0x05#8, 0xDC#8, 0x05#8, 0xDC#8, 0x05#8] ++ [0xD8#8]) =
    .ok (.setRawRc ([0xDC#8, 0x05#8, 0xDC#8, 0x05#8, 0xDC#8, 0x05#8, 0xDC#8, 0x05#8] ++
      [0xDC#8, 0x05#8, 0xDC#8, 0x05#8, 0xDC#8, 0x05#8, 0xDC#8, 0x05#8])) ∧
  decode [0x24#8, 0x4D#8, 0x3C#8, 0x08#8, 0xD6#8, 0x00#8, 0x00#8, 0xFF#8, 0xFF#8, 0xD2#8, 0x04#8, 0xD0#8, 0x07#8, 0xDF#8] =
    .ok (.setMotor [0x00#8, 0x00#8, 0xFF#8, 0xFF#8, 0xD2#8, 0x04#8, 0xD0#8, 0x07#8]) ∧
  decode [0x24#8, 0x4D#8, 0x3C#8, 0x03#8, 0xFF#8, 0x01#8, 0x02#8, 0x03#8, 0xFC#8] =
    .ok (.unknown 0xFF#8 [0x01#8, 0x02#8, 0x03#8]) ∧
  decode [0x24#8] = .ok .start ∧
  decode [0x23#8] = .ok .noop

/-- R68: every id that is not one of the 12 named ones selects the default arm, and no named id does. -/
def Obligations.CommandMapIsClosed : Prop :=
  ∀ (cmd : Byte) (p : List Byte),
    cmd ∉ [0x65#8, 0x66#8, 0x68#8, 0x69#8, 0x6C#8, 0x6D#8, 0x7D#8, 0x7E#8, 0xC8#8, 0xD6#8, 0x44#8, 0x45#8] ↔
      Instr.ofCommand cmd p = .unknown cmd p

/-- R71, R109: a reply is turned away at its direction byte, whatever follows it. The frame decoder rejects it there. A
block in IDLE that receives the first three bytes of a reply is back in IDLE after them, in either armed mode, with no
handler run and nothing output but the diagnostic of a block that has it (log 6). -/
def Obligations.RepliesAreNotCommands : Prop :=
  (∀ (capacity : Nat) (ok : Bool) (cmd : Byte) (p rest : List Byte),
    decodeFrame capacity (replyFrame ok cmd p ++ rest) = .error .badDirection) ∧
  ∀ (s : State) (ok : Bool) (e₁ e₂ e₃ : EnvSample) (rest : List Event),
    s.halted = none → s.started = true → s.pstate = .idle →
    s.inputs = .rx 0x24#8 e₁ :: .rx 0x4D#8 e₂ :: .rx (if ok then 0x3E#8 else 0x21#8) e₃ :: rest →
    Host.Core.run core 3 s =
      .next { s with inputs := rest, env := e₃, trace := s.trace ++ dropEvents .desync }

/-- R62, R114, R115: in every state of the invariant in which only the checksum byte is missing, the byte-at-a-time parser
and the one-shot frame decoder agree. The decoder accepts the bytes received exactly when the last one is the accumulator.
If it answers `i`, the step runs `i` and returns to IDLE; if it rejects them, it is for the checksum, and the step runs no
handler and only returns to IDLE (with the diagnostic of a block that has it, log 6). -/
def Obligations.ParserAgreesWithFrameDecoder : Prop :=
  ∀ (s : State) (b : Byte) (env : EnvSample) (rest : List Event), s.Inv → s.Receives b env rest →
    s.pstate = .headerCmd → s.widx = s.dlen →
    ((decode (s.receivedBytes ++ [b])).isOk ↔ b = s.chk) ∧
    match decode (s.receivedBytes ++ [b]) with
    | .ok i => step s = thenState (exec i (s.taking env rest)) (goto .idle)
    | .error e =>
      e = .badChecksum ∧
        step s = .next { s.taking env rest with pstate := .idle, trace := s.trace ++ dropEvents .checksum }

/-! ## Steps -/

/-- R101, R103, R104, R114, R130: a step runs the instruction the decoding tables give, at the state with the event consumed
and its sample taken. In IDLE the byte is the instruction. At a matching checksum byte it is the one the id selects, and
the parser is in IDLE afterwards. -/
def Obligations.StepRunsDecodedInstruction : Prop :=
  ∀ (s : State) (b : Byte) (env : EnvSample) (rest : List Event), s.Receives b env rest →
    (∀ i, s.pstate = .idle → decode [b] = .ok i → step s = exec i (s.taking env rest)) ∧
    (s.CompletesFrame b →
      step s = thenState (exec (Instr.ofCommand s.cmd (framePayload s)) (s.taking env rest)) (goto .idle))

/-- R118: the bytes of `FRAME(cmd, p)`, however they are spread over invocations (no Invoke among them finds a pending
reboot), bring the parser from IDLE to dispatch exactly once, at the last byte, with the payload in the buffer from index
0 on, and back to IDLE. Before the dispatch nothing is output; the armed mode is the last Invoke's (D15). -/
def Obligations.FrameReachesDispatchOnce : Prop :=
  ∀ (s : State) (cmd : Byte) (p : List Byte) (events : List Event) (env : EnvSample) (rest : List Event),
    s.halted = none → s.started = true → s.pstate = .idle →
    (s.pendReboot = true → ∀ a, .invoke a ∉ events) →
    p.length ≤ Config.capacity →
    rxBytes events = [0x24#8, 0x4D#8, 0x3C#8, BitVec.ofNat 8 p.length, cmd] ++ p →
    s.inputs = events ++ .rx (frameChecksum cmd p) env :: rest →
    Host.Core.run core (events.length + 1) s =
      thenState
        (exec (Instr.ofCommand cmd p)
          { s.loadedWith cmd p with armed := armedAfter s.armed events, env := env, inputs := rest })
        (goto .idle)

/-- R119: the same frame with a wrong checksum byte: no handler runs, nothing is output (but the diagnostic of a block that
has it), the parser ends in IDLE, and the payload stays in the buffer. The armed mode is the last Invoke's
(D15). -/
def Obligations.BadChecksumFrameIsDropped : Prop :=
  ∀ (s : State) (cmd : Byte) (p : List Byte) (events : List Event) (b : Byte) (env : EnvSample) (rest : List Event),
    s.halted = none → s.started = true → s.pstate = .idle →
    (s.pendReboot = true → ∀ a, .invoke a ∉ events) →
    p.length ≤ Config.capacity →
    rxBytes events = [0x24#8, 0x4D#8, 0x3C#8, BitVec.ofNat 8 p.length, cmd] ++ p →
    s.inputs = events ++ .rx b env :: rest →
    b ≠ frameChecksum cmd p →
    Host.Core.run core (events.length + 1) s =
      .next { s.loadedWith cmd p with
        pstate := .idle, armed := armedAfter s.armed events, env := env, inputs := rest,
        trace := s.trace ++ dropEvents .checksum }

/-! ## Serializer and accessors -/

/-- R80 to R83: each write appends its bytes, low byte first, and XORs every one of them into the accumulator; nothing else
changes. -/
def Obligations.SerializerWritesLittleEndian : Prop :=
  ∀ s : State,
    (∀ v : Byte, writeByte v s = { s with trace := s.trace ++ [.tx v], chk := s.chk ^^^ v }) ∧
    (∀ v : Word16, writeShort v s = { s with trace := s.trace ++ txs (le16 v), chk := s.chk ^^^ xorAll (le16 v) }) ∧
    (∀ v : Word32, writeLong v s = { s with trace := s.trace ++ txs (le32 v), chk := s.chk ^^^ xorAll (le32 v) }) ∧
    (∀ p : List Byte, writeBuffer p s = { s with trace := s.trace ++ txs p, chk := s.chk ^^^ xorAll p })

/-- R84, R85, R86: the header leaves `chk = n ^ cmd`; the trailer emits the accumulator and leaves 0 (D8); a whole reply is
`24 4D S n cmd b0 .. b(n-1) c` for any body that emits the bytes `bs` through the serializer. -/
def Obligations.ReplyFraming : Prop :=
  ∀ (s : State) (ok : Bool) (n : Byte),
    headReply ok n s =
      { s with
        trace := s.trace ++ txs [0x24#8, 0x4D#8, if ok then 0x3E#8 else 0x21#8, n, s.cmd], chk := n ^^^ s.cmd } ∧
    tailReply s = { s with trace := s.trace ++ [.tx s.chk], chk := 0 } ∧
    ∀ (bs : List Byte) (body : State → State),
      n = BitVec.ofNat 8 bs.length →
      (∀ t : State, body t = { t with trace := t.trace ++ txs bs, chk := t.chk ^^^ xorAll bs }) →
      reply ok n body s =
        { s with
          trace := s.trace ++
            txs ([0x24#8, 0x4D#8, if ok then 0x3E#8 else 0x21#8, n, s.cmd] ++ bs ++ [n ^^^ s.cmd ^^^ xorAll bs]),
          chk := 0 }

/-- R87, R88, R89 with R52: the accessors return the bytes at the cursor, low byte first, and advance it by their width
(D28); a byte never written is the next free byte. The premises say that the cursor does not run past index 255 (the spec:
every index is below CAPACITY, R48). -/
def Obligations.AccessorsReadAtCursor : Prop :=
  ∀ s : State,
    read8 s = (s.byteFrom s.rcur.toNat 0,
      { s with rcur := s.rcur + 1, draws := s.draws + s.unwrittenFrom s.rcur.toNat 1 }) ∧
    (s.rcur.toNat + 2 ≤ 256 →
      read16 s = (s.byteFrom s.rcur.toNat 1 ++ s.byteFrom s.rcur.toNat 0,
        { s with rcur := s.rcur + 2, draws := s.draws + s.unwrittenFrom s.rcur.toNat 2 })) ∧
    (s.rcur.toNat + 4 ≤ 256 →
      read32 s =
        ((s.byteFrom s.rcur.toNat 3 ++ s.byteFrom s.rcur.toNat 2) ++
            (s.byteFrom s.rcur.toNat 1 ++ s.byteFrom s.rcur.toNat 0),
        { s with rcur := s.rcur + 4, draws := s.draws + s.unwrittenFrom s.rcur.toNat 4 }))

/-! ## The instructions

Each result is the whole next state, so it is the instruction's frame as well: every field not named is unchanged. The
reply echoes the id in `cmd` (R84). That `chk` ends at 0 (R85) is decision D8, and that `rcur` starts a dispatch at 0 (R130)
is decision D9, for every one of them: the spec's own choices (log 8).
-/

/-- R131. The 7 zero bytes after the two counters are the spec's own choice (C1, D6). -/
def Obligations.StatusReply : Prop :=
  ∀ (p : List Byte) (s : State),
    exec (.status p) s =
      .next (s.replied true (le16 s.env.cycleTime ++ le16 s.env.errCount ++ [0#8, 0#8, 0#8, 0#8, 0#8, 0#8, 0#8]))

/-- R132, with this block's ACC_SCALE (R9); `chk` and `rcur` by D8, D9 (log 8). -/
def Obligations.RawImuReply : Prop :=
  ∀ (p : List Byte) (s : State),
    exec (.rawImu p) s =
      .next (s.replied true
        (le16 (Config.accScale s.env.imu[0]) ++ le16 (Config.accScale s.env.imu[1]) ++
          le16 (Config.accScale s.env.imu[2]) ++ le16 s.env.imu[3] ++ le16 s.env.imu[4] ++ le16 s.env.imu[5] ++
          le16 s.env.imu[6] ++ le16 s.env.imu[7] ++ le16 s.env.imu[8]))

/-- R133; `chk` and `rcur` by D8, D9 (log 8). -/
def Obligations.MotorReply : Prop :=
  ∀ (p : List Byte) (s : State),
    exec (.motor p) s =
      .next (s.replied true
        (le16 s.env.motor[0] ++ le16 s.env.motor[1] ++ le16 s.env.motor[2] ++ le16 s.env.motor[3]))

/-- R134. That the values come from the environment sample is the spec's own choice (D13). -/
def Obligations.RcReply : Prop :=
  ∀ (p : List Byte) (s : State),
    exec (.rc p) s =
      .next (s.replied true
        (le16 s.env.rc[0] ++ le16 s.env.rc[1] ++ le16 s.env.rc[2] ++ le16 s.env.rc[3] ++
          le16 s.env.rc[4] ++ le16 s.env.rc[5] ++ le16 s.env.rc[6] ++ le16 s.env.rc[7]))

/-- R135; `chk` and `rcur` by D8, D9 (log 8). -/
def Obligations.AttitudeReply : Prop :=
  ∀ (p : List Byte) (s : State),
    exec (.attitude p) s =
      .next (s.replied true (le16 s.env.angle[0] ++ le16 s.env.angle[1] ++ le16 s.env.heading))

/-- R136; `chk` and `rcur` by D8, D9 (log 8). -/
def Obligations.AltitudeReply : Prop :=
  ∀ (p : List Byte) (s : State),
    exec (.altitude p) s = .next (s.replied true (le32 s.env.altitude ++ le16 s.env.vario))

/-- R137: an error reply or a success reply of length 0, by the parameter PX4FLOW_MODE (R10, D12). -/
def Obligations.Px4flowReply : Prop :=
  ∀ (p : List Byte) (s : State),
    exec (.px4flow p) s =
      .next (match Config.px4flowMode with
        | .unregistered => s.replied false []
        | .okEmpty => s.replied true [])

/-- R138; `chk` and `rcur` by D8, D9 (log 8). -/
def Obligations.Mb1242Reply : Prop :=
  ∀ (p : List Byte) (s : State),
    exec (.mb1242 p) s = .next (s.replied true (le32 s.env.baro ++ le32 s.env.sonar))

/-- R142; `chk` and `rcur` by D8, D9 (log 8). -/
def Obligations.BuildInfoReply : Prop :=
  ∀ (p : List Byte) (s : State),
    exec (.buildInfo p) s =
      .next (s.replied true (Config.buildDate.toList ++ [0#8, 0#8, 0#8, 0#8, 0#8, 0#8, 0#8, 0#8]))

/-- R139, R144: the 8 values at indices 0 to 15 of the buffer as it stands, whatever the declared length; `CtlWrite` comes
before the reply; `rcur` ends at 16. The order and the stale bytes are the spec's own choice (D19, D10); never-written
bytes are free values (R52, log 3). -/
def Obligations.SetRawRcWritesChannels : Prop :=
  ∀ (p : List Byte) (s : State),
    exec (.setRawRc p) s =
      .next { s with
        rcur := 16, chk := 0, draws := s.draws + s.unwrittenFrom 0 16,
        trace := s.trace ++
          [.ctlWrite #v[s.payloadShort 0, s.payloadShort 2, s.payloadShort 4, s.payloadShort 6,
            s.payloadShort 8, s.payloadShort 10, s.payloadShort 12, s.payloadShort 14]] ++
          txs (replyFrame true s.cmd []) }

/-- R140, R144: the 4 values at indices 0 to 7, one `MotorSet` each in channel order, before the reply; `rcur` ends at 8.
The order and the stale bytes are the spec's own choice (D19, D10); never-written bytes are free values (R52, log 3). -/
def Obligations.SetMotorSetsChannels : Prop :=
  ∀ (p : List Byte) (s : State),
    exec (.setMotor p) s =
      .next { s with
        rcur := 8, chk := 0, draws := s.draws + s.unwrittenFrom 0 8,
        trace := s.trace ++
          [.motorSet 0 (s.payloadShort 0), .motorSet 1 (s.payloadShort 2),
            .motorSet 2 (s.payloadShort 4), .motorSet 3 (s.payloadShort 6)] ++
          txs (replyFrame true s.cmd []) }

/-- R141: the reply, and `pend_reboot <- 1`; `chk` and `rcur` by D8, D9 (log 8). -/
def Obligations.RebootSetsPending : Prop :=
  ∀ (p : List Byte) (s : State),
    exec (.reboot p) s = .next { s.replied true [] with pendReboot := true }

/-- R143: the error reply `24 4D 21 00 c c`, for every id and payload, and for id 125 when it is unregistered (R137);
an empty success reply for 125 otherwise is D12. `chk` and `rcur` by D8, D9 (log 8). -/
def Obligations.UnknownErrorReply : Prop :=
  ∀ (c : Byte) (p : List Byte) (s : State),
    exec (.unknown c p) s =
      .next { s with
        rcur := 0, chk := 0, trace := s.trace ++ txs [0x24#8, 0x4D#8, 0x21#8, 0x00#8, s.cmd, s.cmd] } ∧
    exec (.px4flow p) s =
      match Config.px4flowMode with
      | .unregistered => exec (.unknown c p) s
      | .okEmpty => .next (s.replied true [])

/-- R101: `'$'` in IDLE, in either armed mode, only moves `pstate` to HEADER_START; as an instruction and as a step. -/
def Obligations.StartOpensFrame : Prop :=
  ∀ s : State,
    exec .start s = .next { s with pstate := .headerStart } ∧
    ∀ (env : EnvSample) (rest : List Event), s.Receives 0x24#8 env rest → s.pstate = .idle →
      step s = .next { s.taking env rest with pstate := .headerStart }

/-- R103: `'#'` in IDLE while unarmed has no output and no state change; as an instruction and as a step. That it emits
nothing is the spec's own choice (D5). -/
def Obligations.NoopChangesNothing : Prop :=
  ∀ s : State,
    exec .noop s = .next s ∧
    ∀ (env : EnvSample) (rest : List Event), s.Receives 0x23#8 env rest → s.pstate = .idle → s.armed = false →
      step s = .next (s.taking env rest)

/-- R104: REBOOT_CHAR in IDLE while unarmed requests the Bootloader reset at once, whatever `pend_reboot` is; while armed
the instruction is ignored (R102). As an instruction and as a step. -/
def Obligations.BootRequestsBootloader : Prop :=
  ∀ s : State,
    exec .boot s =
      .next (if s.armed then s
        else { s with halted := some .bootloader, trace := s.trace ++ [.sysResetReq .bootloader] }) ∧
    ∀ (env : EnvSample) (rest : List Event), s.Receives Config.rebootChar env rest → s.pstate = .idle →
      s.armed = false →
      step s = .next { s.taking env rest with
        halted := some .bootloader, trace := s.trace ++ [.sysResetReq .bootloader] }

/-! ## The parser's transitions -/

/-- R102, R105: in IDLE a byte other than `'$'`, while armed, or other than `'$'`, `'#'` and REBOOT_CHAR, is consumed and
changes nothing. -/
def Obligations.IdleIgnoresOtherBytes : Prop :=
  ∀ (s : State) (b : Byte) (env : EnvSample) (rest : List Event), s.Receives b env rest → s.pstate = .idle →
    b ≠ 0x24#8 → s.armed = true ∨ (b ≠ 0x23#8 ∧ b ≠ Config.rebootChar) →
    step s = .next (s.taking env rest)

/-- R106, R107. -/
def Obligations.HeaderStartTakesLetter : Prop :=
  ∀ (s : State) (b : Byte) (env : EnvSample) (rest : List Event), s.Receives b env rest → s.pstate = .headerStart →
    step s = .next (if b = 0x4D#8 then { s.taking env rest with pstate := .headerM }
      else { s.taking env rest with pstate := .idle, trace := s.trace ++ dropEvents .desync })

/-- R108, R109. -/
def Obligations.HeaderMTakesDirection : Prop :=
  ∀ (s : State) (b : Byte) (env : EnvSample) (rest : List Event), s.Receives b env rest → s.pstate = .headerM →
    step s = .next (if b = 0x3C#8 then { s.taking env rest with pstate := .headerArrow }
      else { s.taking env rest with pstate := .idle, trace := s.trace ++ dropEvents .desync })

/-- R110, R111: the capacity test, and what an accepted length sets. That an oversized length leaves `dlen`, `widx` and
`chk` as they are is the spec's own choice (D35). -/
def Obligations.HeaderArrowTakesLength : Prop :=
  ∀ (s : State) (b : Byte) (env : EnvSample) (rest : List Event), s.Receives b env rest → s.pstate = .headerArrow →
    step s = .next (if b.toNat > Config.capacity
      then { s.taking env rest with pstate := .idle, trace := s.trace ++ dropEvents .oversize }
      else { s.taking env rest with dlen := b, widx := 0, chk := b, pstate := .headerSize })

/-- R112. -/
def Obligations.HeaderSizeTakesCommand : Prop :=
  ∀ (s : State) (b : Byte) (env : EnvSample) (rest : List Event), s.Receives b env rest → s.pstate = .headerSize →
    step s = .next { s.taking env rest with chk := s.chk ^^^ b, cmd := b, pstate := .headerCmd }

/-- R113: the byte goes to `buf[widx]`, every other byte of the buffer reads as before. -/
def Obligations.HeaderCmdStoresPayload : Prop :=
  ∀ (s : State) (b : Byte) (env : EnvSample) (rest : List Event), s.Receives b env rest → s.pstate = .headerCmd →
    s.widx < s.dlen → s.dlen.toNat ≤ Config.capacity →
    ∃ m : Memory,
      step s = .next { s.taking env rest with chk := s.chk ^^^ b, buf := m, widx := s.widx + 1 } ∧
      ∀ j, m.read j = if j = s.widx.toNat then some b else s.buf.read j

/-- R115: no handler runs and only `pstate` changes. -/
def Obligations.ChecksumMismatchDrops : Prop :=
  ∀ (s : State) (b : Byte) (env : EnvSample) (rest : List Event), s.Receives b env rest → s.pstate = .headerCmd →
    s.widx = s.dlen → b ≠ s.chk →
    step s = .next { s.taking env rest with pstate := .idle, trace := s.trace ++ dropEvents .checksum }

/-- R116: under the invariant every byte has exactly one transition, a next state, in the parser state its table gives, and
halted exactly on the table's row "(halted)": REBOOT_CHAR in IDLE while unarmed. There the table names no parser state,
and R104 writes none, so `pstate` stays IDLE. -/
def Obligations.ParserTableIsTotal : Prop :=
  ∀ (s : State) (b : Byte) (env : EnvSample) (rest : List Event), s.Inv → s.Receives b env rest →
    ∃ t, step s = .next t ∧ t.pstate = nextParserState s b ∧
      t.halted = if s.pstate = .idle ∧ b = Config.rebootChar ∧ s.armed = false then some .bootloader else none

/-! ## The driver -/

/-- R160: the pending reboot is taken before anything else; otherwise the armed mode is latched. The reset's mode and the
latching are the spec's own choices (D14, D15). -/
def Obligations.InvokeTakesRebootOrLatches : Prop :=
  ∀ (s : State) (a : Bool) (rest : List Event), s.halted = none → s.inputs = .invoke a :: rest →
    step s = .next (if s.pendReboot
      then { s with inputs := rest, halted := some .normal, trace := s.trace ++ [.sysResetReq .normal] }
      else { s with inputs := rest, armed := a, started := true })

/-- R164: while halted no event has a step (the model's fault, log 9), until the external reset (the spec's own
choice, D17). -/
def Obligations.HaltedHasNoStep : Prop :=
  ∀ (s : State) (m : ResetMode), s.halted = some m → step s = .fault .halted ∧ (hostReset s).halted = none

/-- R30, R161, R191: before the first Invoke an `Rx` has no step (the model's fault, log 9; the spec's own choice, D18). -/
def Obligations.NoRxBeforeInvoke : Prop :=
  ∀ (s : State) (b : Byte) (env : EnvSample) (rest : List Event),
    s.halted = none → s.started = false → s.inputs = .rx b env :: rest → step s = .fault .notStarted

/-! ## Rules about the whole machine -/

/-- R194: a pending reboot changes nothing about how the bytes of the same invocation are parsed and dispatched. -/
def Obligations.RxIgnoresPendingReboot : Prop :=
  ∀ (s : State) (b : Byte) (env : EnvSample) (rest : List Event), s.Receives b env rest →
    step { s with pendReboot := true } = thenState (step s) fun t => { t with pendReboot := true }

/-- R181, R29: outside IDLE the armed mode makes no difference to a byte. That every frame, REBOOT's too, is parsed and
dispatched in both modes is the spec's own choice (D32, log 8). -/
def Obligations.ArmedMattersOnlyInIdle : Prop :=
  ∀ (s : State) (a : Bool) (b : Byte) (env : EnvSample) (rest : List Event),
    s.Receives b env rest → s.pstate ≠ .idle →
    step { s with armed := a } = thenState (step s) fun t => { t with armed := a }

/-- R175: a step halts the block in exactly two ways, each with its reset request and nothing else output. -/
def Obligations.OnlyTwoResetPaths : Prop :=
  ∀ (s t : State) (m : ResetMode), step s = .next t → t.halted = some m →
    t.trace = s.trace ++ [.sysResetReq m] ∧
    match m with
    | .normal => s.pendReboot = true ∧ ∃ a rest, s.inputs = .invoke a :: rest
    | .bootloader =>
      s.pstate = .idle ∧ s.armed = false ∧ ∃ env rest, s.inputs = .rx Config.rebootChar env :: rest

/-- R28: the pending-reboot flag is set by a REBOOT dispatch and by nothing else, and no step clears it. -/
def Obligations.OnlyRebootSetsPending : Prop :=
  ∀ s t : State, step s = .next t →
    (t.pendReboot = true ↔
      s.pendReboot = true ∨ ∃ b env rest, s.Receives b env rest ∧ s.CompletesFrame b ∧ s.cmd = 0x44#8)

/-- R27, R113: only the parser's byte store writes the buffer, at `widx`; every other step leaves every byte as it reads. -/
def Obligations.OnlyPayloadStoreWritesBuffer : Prop :=
  ∀ s t : State, step s = .next t →
    (∀ j, t.buf.read j = s.buf.read j) ∨
    ∃ b env rest, s.Receives b env rest ∧ s.pstate = .headerCmd ∧ s.widx < s.dlen ∧
      ∀ j, t.buf.read j = if j = s.widx.toNat then some b else s.buf.read j

/-- R47, R49, R100: a step only appends to the trace, and appends anything but a diagnostic or a reset request only when it
completes a frame. -/
def Obligations.OnlyDispatchOutputs : Prop :=
  ∀ s t : State, step s = .next t →
    ∃ es : List Output, t.trace = s.trace ++ es ∧
      ((∃ e ∈ es, (∀ c, e ≠ .dropDiag c) ∧ ∀ m, e ≠ .sysResetReq m) →
        ∃ b env rest, s.Receives b env rest ∧ s.CompletesFrame b)

/-- R86, R130, R174: every frame's handler completes and emits exactly one reply, of at most 19 payload bytes (R65), after
its collaborator events; the status is error only for UNKNOWN and for PX4FLOW when it is unregistered. -/
def Obligations.EveryHandlerRepliesOnce : Prop :=
  ∀ (i : Instr) (s : State), isFrame i = true →
    ∃ (t : State) (before : List Output) (ok : Bool) (bs : List Byte),
      exec i s = .next t ∧
      t.trace = s.trace ++ before ++ txs (replyFrame ok s.cmd bs) ∧
      (∀ e ∈ before, ∀ b, e ≠ .tx b) ∧ bs.length ≤ 19 ∧
      (ok = false ↔ (∃ c p, i = .unknown c p) ∨ (∃ p, i = .px4flow p) ∧ Config.px4flowMode = .unregistered)

/-- R145: a dispatch writes only `rcur`, `chk` and, for REBOOT, `pend_reboot` (beside the trace and the count of free
bytes). -/
def Obligations.DispatchWritesOnly : Prop :=
  ∀ (i : Instr) (s t : State), isFrame i = true → exec i s = .next t →
    t = { s with rcur := t.rcur, chk := t.chk, pendReboot := t.pendReboot, draws := t.draws, trace := t.trace } ∧
    ((∀ p, i ≠ .reboot p) → t.pendReboot = s.pendReboot)

/-- R146: the same frame run twice with the same sample outputs the same twice, provided the bytes its handler reads have
been written: a byte never written is a fresh draw at each read (R52). -/
def Obligations.DispatchIsRepeatable : Prop :=
  ∀ (i : Instr) (s t u : State), isFrame i = true → (∀ k, k < bytesRead i → (s.buf.read k).isSome) →
    exec i s = .next t → exec i t = .next u →
    ∃ es : List Output, t.trace = s.trace ++ es ∧ u.trace = t.trace ++ es

/-- R147: any reply a handler sends, with its status byte replaced by `'<'`, decodes to the same command with the reply's
payload as its payload. -/
def Obligations.ReplyRoundTrip : Prop :=
  ∀ (i : Instr) (s t : State), isFrame i = true → exec i s = .next t →
    ∃ (before : List Output) (ok : Bool) (bs : List Byte),
      t.trace = s.trace ++ before ++ txs (replyFrame ok s.cmd bs) ∧
      (∀ e ∈ before, ∀ b, e ≠ .tx b) ∧
      decode ((replyFrame ok s.cmd bs).set 2 0x3C#8) = .ok (Instr.ofCommand s.cmd bs)

/-- R190, R22, R24 to R26, R198: `rcur` never, `chk`, `widx`, `dlen` and `cmd` outside the frame that wrote them, `armed`
before an Invoke, and an earlier sample cannot be observed: states that differ only there step alike, for ever. -/
def Obligations.ResidueIsUnobservable : Prop :=
  ∀ s t : State, s.ObsEq t → OutcomesObsEq (step s) (step t)

/-- R195, R141, R160: the six bytes of REBOOT's reply precede `SysResetReq(Normal)`, which the next Invoke requests. -/
def Obligations.RebootReplyPrecedesReset : Prop :=
  ∀ (s : State) (b : Byte) (env : EnvSample) (a : Bool) (rest : List Event),
    s.Receives b env (.invoke a :: rest) → s.CompletesFrame b → s.cmd = 0x44#8 →
    ∃ t, Host.Core.run core 2 s = .next t ∧ t.halted = some .normal ∧
      t.trace = s.trace ++ txs [0x24#8, 0x4D#8, 0x3E#8, 0x00#8, 0x44#8, 0x44#8] ++ [.sysResetReq .normal]

/-- R201, R164, R166: once REBOOT_CHAR takes effect the run has ended: the rest of the input is never consumed. -/
def Obligations.BytesAfterBootloaderStay : Prop :=
  ∀ (s : State) (env : EnvSample) (rest : List Event) (k : Nat),
    s.Receives Config.rebootChar env rest → s.pstate = .idle → s.armed = false →
    endOfRun (k + 1) s =
      { s with
        halted := some .bootloader, trace := s.trace ++ [.sysResetReq .bootloader], inputs := rest, env := env }

/-- R196: under the invariant a frame under way is over after the missing payload bytes and one byte more, whatever they
are: the parser is back in IDLE, and the events after them are untouched. The bytes are of one invocation: no Invoke
stands among them. -/
def Obligations.FrameEndsWithinItsLength : Prop :=
  ∀ (s : State) (bytes : List (Byte × EnvSample)) (rest : List Event), s.Inv →
    s.halted = none → s.started = true → s.pstate = .headerCmd →
    bytes.length = s.dlen.toNat - s.widx.toNat + 1 →
    s.inputs = bytes.map (fun b => Event.rx b.1 b.2) ++ rest →
    ∃ t, Host.Core.run core bytes.length s = .next t ∧ t.pstate = .idle ∧ t.inputs = rest
end

