-- ==== Sys2Proof/Laws/Bytes.lean ====
section
/-! SUPPORT. Laws of bytes on the wire: the XOR of a byte sequence, the two spellings of a value's bytes, and trace events. -/

namespace Sys2Proof

theorem foldl_xor (bs : List Byte) (a : Byte) : bs.foldl (· ^^^ ·) a = a ^^^ xorAll bs := by
  induction bs generalizing a with
  | nil => simp [xorAll]
  | cons b bs ih =>
    simp only [xorAll, List.foldl_cons]
    rw [ih, ih (0#8 ^^^ b)]
    simp [BitVec.xor_assoc]

@[simp] theorem xorAll_nil : xorAll [] = 0#8 := rfl

@[simp] theorem xorAll_cons (b : Byte) (bs : List Byte) : xorAll (b :: bs) = b ^^^ xorAll bs := by
  rw [xorAll, List.foldl_cons, foldl_xor]
  simp

@[simp] theorem xorAll_append (as bs : List Byte) : xorAll (as ++ bs) = xorAll as ^^^ xorAll bs := by
  induction as with
  | nil => simp
  | cons a as ih => simp [ih, BitVec.xor_assoc]

namespace Machine

@[simp] theorem txs_nil : txs [] = [] := rfl

@[simp] theorem txs_cons (b : Byte) (bs : List Byte) : txs (b :: bs) = .tx b :: txs bs := rfl

@[simp] theorem txs_append (as bs : List Byte) : txs (as ++ bs) = txs as ++ txs bs := List.map_append

/-- The bytes of a 16-bit value (R43), as the serializer cuts them out. -/
theorem le16_eq (v : Word16) : le16 v = [byteOf v 0, byteOf v 1] := by
  simp only [le16, byteOf, List.cons.injEq, and_true]
  constructor <;> ext i <;> simp [BitVec.getElem_extractLsb']

/-- The bytes of a 32-bit value (R43), as the serializer cuts them out. -/
theorem le32_eq (v : Word32) : le32 v = [byteOf v 0, byteOf v 1, byteOf v 2, byteOf v 3] := by
  simp only [le32, byteOf, List.cons.injEq, and_true]
  refine ⟨?_, ?_, ?_, ?_⟩ <;> ext i <;> simp [BitVec.getElem_extractLsb']

end Machine

end Sys2Proof
end

