-- ==== Sys2Proof/Laws/State.lean ====
section
/-! SUPPORT. One lemma per field per primitive update of State, each true by rfl, so that no proof unfolds a record update. -/

namespace Sys2Proof.Machine

/-! `setPendReboot` -/

@[simp] theorem setPendReboot_pstate (s : State) : (setPendReboot s).pstate = s.pstate := rfl
@[simp] theorem setPendReboot_chk (s : State) : (setPendReboot s).chk = s.chk := rfl
@[simp] theorem setPendReboot_widx (s : State) : (setPendReboot s).widx = s.widx := rfl
@[simp] theorem setPendReboot_rcur (s : State) : (setPendReboot s).rcur = s.rcur := rfl
@[simp] theorem setPendReboot_cmd (s : State) : (setPendReboot s).cmd = s.cmd := rfl
@[simp] theorem setPendReboot_dlen (s : State) : (setPendReboot s).dlen = s.dlen := rfl
@[simp] theorem setPendReboot_buf (s : State) : (setPendReboot s).buf = s.buf := rfl
@[simp] theorem setPendReboot_pendReboot (s : State) : (setPendReboot s).pendReboot = true := rfl
@[simp] theorem setPendReboot_armed (s : State) : (setPendReboot s).armed = s.armed := rfl
@[simp] theorem setPendReboot_started (s : State) : (setPendReboot s).started = s.started := rfl
@[simp] theorem setPendReboot_halted (s : State) : (setPendReboot s).halted = s.halted := rfl
@[simp] theorem setPendReboot_inputs (s : State) : (setPendReboot s).inputs = s.inputs := rfl
@[simp] theorem setPendReboot_env (s : State) : (setPendReboot s).env = s.env := rfl
@[simp] theorem setPendReboot_draws (s : State) : (setPendReboot s).draws = s.draws := rfl
@[simp] theorem setPendReboot_trace (s : State) : (setPendReboot s).trace = s.trace := rfl

/-! `latchArmed` -/

@[simp] theorem latchArmed_pstate (a : Bool) (s : State) : (latchArmed a s).pstate = s.pstate := rfl
@[simp] theorem latchArmed_chk (a : Bool) (s : State) : (latchArmed a s).chk = s.chk := rfl
@[simp] theorem latchArmed_widx (a : Bool) (s : State) : (latchArmed a s).widx = s.widx := rfl
@[simp] theorem latchArmed_rcur (a : Bool) (s : State) : (latchArmed a s).rcur = s.rcur := rfl
@[simp] theorem latchArmed_cmd (a : Bool) (s : State) : (latchArmed a s).cmd = s.cmd := rfl
@[simp] theorem latchArmed_dlen (a : Bool) (s : State) : (latchArmed a s).dlen = s.dlen := rfl
@[simp] theorem latchArmed_buf (a : Bool) (s : State) : (latchArmed a s).buf = s.buf := rfl
@[simp] theorem latchArmed_pendReboot (a : Bool) (s : State) : (latchArmed a s).pendReboot = s.pendReboot := rfl
@[simp] theorem latchArmed_armed (a : Bool) (s : State) : (latchArmed a s).armed = a := rfl
@[simp] theorem latchArmed_started (a : Bool) (s : State) : (latchArmed a s).started = true := rfl
@[simp] theorem latchArmed_halted (a : Bool) (s : State) : (latchArmed a s).halted = s.halted := rfl
@[simp] theorem latchArmed_inputs (a : Bool) (s : State) : (latchArmed a s).inputs = s.inputs := rfl
@[simp] theorem latchArmed_env (a : Bool) (s : State) : (latchArmed a s).env = s.env := rfl
@[simp] theorem latchArmed_draws (a : Bool) (s : State) : (latchArmed a s).draws = s.draws := rfl
@[simp] theorem latchArmed_trace (a : Bool) (s : State) : (latchArmed a s).trace = s.trace := rfl

/-! `clearChk` -/

@[simp] theorem clearChk_pstate (s : State) : (clearChk s).pstate = s.pstate := rfl
@[simp] theorem clearChk_chk (s : State) : (clearChk s).chk = 0 := rfl
@[simp] theorem clearChk_widx (s : State) : (clearChk s).widx = s.widx := rfl
@[simp] theorem clearChk_rcur (s : State) : (clearChk s).rcur = s.rcur := rfl
@[simp] theorem clearChk_cmd (s : State) : (clearChk s).cmd = s.cmd := rfl
@[simp] theorem clearChk_dlen (s : State) : (clearChk s).dlen = s.dlen := rfl
@[simp] theorem clearChk_buf (s : State) : (clearChk s).buf = s.buf := rfl
@[simp] theorem clearChk_pendReboot (s : State) : (clearChk s).pendReboot = s.pendReboot := rfl
@[simp] theorem clearChk_armed (s : State) : (clearChk s).armed = s.armed := rfl
@[simp] theorem clearChk_started (s : State) : (clearChk s).started = s.started := rfl
@[simp] theorem clearChk_halted (s : State) : (clearChk s).halted = s.halted := rfl
@[simp] theorem clearChk_inputs (s : State) : (clearChk s).inputs = s.inputs := rfl
@[simp] theorem clearChk_env (s : State) : (clearChk s).env = s.env := rfl
@[simp] theorem clearChk_draws (s : State) : (clearChk s).draws = s.draws := rfl
@[simp] theorem clearChk_trace (s : State) : (clearChk s).trace = s.trace := rfl

/-! `xorChk` -/

@[simp] theorem xorChk_pstate (b : Byte) (s : State) : (xorChk b s).pstate = s.pstate := rfl
@[simp] theorem xorChk_chk (b : Byte) (s : State) : (xorChk b s).chk = s.chk ^^^ b := rfl
@[simp] theorem xorChk_widx (b : Byte) (s : State) : (xorChk b s).widx = s.widx := rfl
@[simp] theorem xorChk_rcur (b : Byte) (s : State) : (xorChk b s).rcur = s.rcur := rfl
@[simp] theorem xorChk_cmd (b : Byte) (s : State) : (xorChk b s).cmd = s.cmd := rfl
@[simp] theorem xorChk_dlen (b : Byte) (s : State) : (xorChk b s).dlen = s.dlen := rfl
@[simp] theorem xorChk_buf (b : Byte) (s : State) : (xorChk b s).buf = s.buf := rfl
@[simp] theorem xorChk_pendReboot (b : Byte) (s : State) : (xorChk b s).pendReboot = s.pendReboot := rfl
@[simp] theorem xorChk_armed (b : Byte) (s : State) : (xorChk b s).armed = s.armed := rfl
@[simp] theorem xorChk_started (b : Byte) (s : State) : (xorChk b s).started = s.started := rfl
@[simp] theorem xorChk_halted (b : Byte) (s : State) : (xorChk b s).halted = s.halted := rfl
@[simp] theorem xorChk_inputs (b : Byte) (s : State) : (xorChk b s).inputs = s.inputs := rfl
@[simp] theorem xorChk_env (b : Byte) (s : State) : (xorChk b s).env = s.env := rfl
@[simp] theorem xorChk_draws (b : Byte) (s : State) : (xorChk b s).draws = s.draws := rfl
@[simp] theorem xorChk_trace (b : Byte) (s : State) : (xorChk b s).trace = s.trace := rfl

/-! `goto` -/

@[simp] theorem goto_pstate (p : ParserState) (s : State) : (goto p s).pstate = p := rfl
@[simp] theorem goto_chk (p : ParserState) (s : State) : (goto p s).chk = s.chk := rfl
@[simp] theorem goto_widx (p : ParserState) (s : State) : (goto p s).widx = s.widx := rfl
@[simp] theorem goto_rcur (p : ParserState) (s : State) : (goto p s).rcur = s.rcur := rfl
@[simp] theorem goto_cmd (p : ParserState) (s : State) : (goto p s).cmd = s.cmd := rfl
@[simp] theorem goto_dlen (p : ParserState) (s : State) : (goto p s).dlen = s.dlen := rfl
@[simp] theorem goto_buf (p : ParserState) (s : State) : (goto p s).buf = s.buf := rfl
@[simp] theorem goto_pendReboot (p : ParserState) (s : State) : (goto p s).pendReboot = s.pendReboot := rfl
@[simp] theorem goto_armed (p : ParserState) (s : State) : (goto p s).armed = s.armed := rfl
@[simp] theorem goto_started (p : ParserState) (s : State) : (goto p s).started = s.started := rfl
@[simp] theorem goto_halted (p : ParserState) (s : State) : (goto p s).halted = s.halted := rfl
@[simp] theorem goto_inputs (p : ParserState) (s : State) : (goto p s).inputs = s.inputs := rfl
@[simp] theorem goto_env (p : ParserState) (s : State) : (goto p s).env = s.env := rfl
@[simp] theorem goto_draws (p : ParserState) (s : State) : (goto p s).draws = s.draws := rfl
@[simp] theorem goto_trace (p : ParserState) (s : State) : (goto p s).trace = s.trace := rfl

/-! `out` -/

@[simp] theorem out_pstate (e : Output) (s : State) : (out e s).pstate = s.pstate := rfl
@[simp] theorem out_chk (e : Output) (s : State) : (out e s).chk = s.chk := rfl
@[simp] theorem out_widx (e : Output) (s : State) : (out e s).widx = s.widx := rfl
@[simp] theorem out_rcur (e : Output) (s : State) : (out e s).rcur = s.rcur := rfl
@[simp] theorem out_cmd (e : Output) (s : State) : (out e s).cmd = s.cmd := rfl
@[simp] theorem out_dlen (e : Output) (s : State) : (out e s).dlen = s.dlen := rfl
@[simp] theorem out_buf (e : Output) (s : State) : (out e s).buf = s.buf := rfl
@[simp] theorem out_pendReboot (e : Output) (s : State) : (out e s).pendReboot = s.pendReboot := rfl
@[simp] theorem out_armed (e : Output) (s : State) : (out e s).armed = s.armed := rfl
@[simp] theorem out_started (e : Output) (s : State) : (out e s).started = s.started := rfl
@[simp] theorem out_halted (e : Output) (s : State) : (out e s).halted = s.halted := rfl
@[simp] theorem out_inputs (e : Output) (s : State) : (out e s).inputs = s.inputs := rfl
@[simp] theorem out_env (e : Output) (s : State) : (out e s).env = s.env := rfl
@[simp] theorem out_draws (e : Output) (s : State) : (out e s).draws = s.draws := rfl
@[simp] theorem out_trace (e : Output) (s : State) : (out e s).trace = s.trace ++ [e] := rfl

/-! `raiseDrop` -/

@[simp] theorem raiseDrop_pstate (c : DropCode) (s : State) : (raiseDrop c s).pstate = .idle := rfl
@[simp] theorem raiseDrop_chk (c : DropCode) (s : State) : (raiseDrop c s).chk = s.chk := rfl
@[simp] theorem raiseDrop_widx (c : DropCode) (s : State) : (raiseDrop c s).widx = s.widx := rfl
@[simp] theorem raiseDrop_rcur (c : DropCode) (s : State) : (raiseDrop c s).rcur = s.rcur := rfl
@[simp] theorem raiseDrop_cmd (c : DropCode) (s : State) : (raiseDrop c s).cmd = s.cmd := rfl
@[simp] theorem raiseDrop_dlen (c : DropCode) (s : State) : (raiseDrop c s).dlen = s.dlen := rfl
@[simp] theorem raiseDrop_buf (c : DropCode) (s : State) : (raiseDrop c s).buf = s.buf := rfl
@[simp] theorem raiseDrop_pendReboot (c : DropCode) (s : State) : (raiseDrop c s).pendReboot = s.pendReboot := rfl
@[simp] theorem raiseDrop_armed (c : DropCode) (s : State) : (raiseDrop c s).armed = s.armed := rfl
@[simp] theorem raiseDrop_started (c : DropCode) (s : State) : (raiseDrop c s).started = s.started := rfl
@[simp] theorem raiseDrop_halted (c : DropCode) (s : State) : (raiseDrop c s).halted = s.halted := rfl
@[simp] theorem raiseDrop_inputs (c : DropCode) (s : State) : (raiseDrop c s).inputs = s.inputs := rfl
@[simp] theorem raiseDrop_env (c : DropCode) (s : State) : (raiseDrop c s).env = s.env := rfl
@[simp] theorem raiseDrop_draws (c : DropCode) (s : State) : (raiseDrop c s).draws = s.draws := rfl
@[simp] theorem raiseDrop_trace (c : DropCode) (s : State) : (raiseDrop c s).trace = s.trace ++ dropEvents c := rfl

/-! `sysReset` -/

@[simp] theorem sysReset_pstate (m : ResetMode) (s : State) : (sysReset m s).pstate = s.pstate := rfl
@[simp] theorem sysReset_chk (m : ResetMode) (s : State) : (sysReset m s).chk = s.chk := rfl
@[simp] theorem sysReset_widx (m : ResetMode) (s : State) : (sysReset m s).widx = s.widx := rfl
@[simp] theorem sysReset_rcur (m : ResetMode) (s : State) : (sysReset m s).rcur = s.rcur := rfl
@[simp] theorem sysReset_cmd (m : ResetMode) (s : State) : (sysReset m s).cmd = s.cmd := rfl
@[simp] theorem sysReset_dlen (m : ResetMode) (s : State) : (sysReset m s).dlen = s.dlen := rfl
@[simp] theorem sysReset_buf (m : ResetMode) (s : State) : (sysReset m s).buf = s.buf := rfl
@[simp] theorem sysReset_pendReboot (m : ResetMode) (s : State) : (sysReset m s).pendReboot = s.pendReboot := rfl
@[simp] theorem sysReset_armed (m : ResetMode) (s : State) : (sysReset m s).armed = s.armed := rfl
@[simp] theorem sysReset_started (m : ResetMode) (s : State) : (sysReset m s).started = s.started := rfl
@[simp] theorem sysReset_halted (m : ResetMode) (s : State) : (sysReset m s).halted = some m := rfl
@[simp] theorem sysReset_inputs (m : ResetMode) (s : State) : (sysReset m s).inputs = s.inputs := rfl
@[simp] theorem sysReset_env (m : ResetMode) (s : State) : (sysReset m s).env = s.env := rfl
@[simp] theorem sysReset_draws (m : ResetMode) (s : State) : (sysReset m s).draws = s.draws := rfl
@[simp] theorem sysReset_trace (m : ResetMode) (s : State) : (sysReset m s).trace = s.trace ++ [.sysResetReq m] := rfl

/-! `beginDispatch` -/

@[simp] theorem beginDispatch_pstate (s : State) : (beginDispatch s).pstate = s.pstate := rfl
@[simp] theorem beginDispatch_chk (s : State) : (beginDispatch s).chk = s.chk := rfl
@[simp] theorem beginDispatch_widx (s : State) : (beginDispatch s).widx = s.widx := rfl
@[simp] theorem beginDispatch_rcur (s : State) : (beginDispatch s).rcur = 0 := rfl
@[simp] theorem beginDispatch_cmd (s : State) : (beginDispatch s).cmd = s.cmd := rfl
@[simp] theorem beginDispatch_dlen (s : State) : (beginDispatch s).dlen = s.dlen := rfl
@[simp] theorem beginDispatch_buf (s : State) : (beginDispatch s).buf = s.buf := rfl
@[simp] theorem beginDispatch_pendReboot (s : State) : (beginDispatch s).pendReboot = s.pendReboot := rfl
@[simp] theorem beginDispatch_armed (s : State) : (beginDispatch s).armed = s.armed := rfl
@[simp] theorem beginDispatch_started (s : State) : (beginDispatch s).started = s.started := rfl
@[simp] theorem beginDispatch_halted (s : State) : (beginDispatch s).halted = s.halted := rfl
@[simp] theorem beginDispatch_inputs (s : State) : (beginDispatch s).inputs = s.inputs := rfl
@[simp] theorem beginDispatch_env (s : State) : (beginDispatch s).env = s.env := rfl
@[simp] theorem beginDispatch_draws (s : State) : (beginDispatch s).draws = s.draws := rfl
@[simp] theorem beginDispatch_trace (s : State) : (beginDispatch s).trace = s.trace := rfl

/-! `advanceCursor` -/

@[simp] theorem advanceCursor_pstate (s : State) : (advanceCursor s).pstate = s.pstate := rfl
@[simp] theorem advanceCursor_chk (s : State) : (advanceCursor s).chk = s.chk := rfl
@[simp] theorem advanceCursor_widx (s : State) : (advanceCursor s).widx = s.widx := rfl
@[simp] theorem advanceCursor_rcur (s : State) : (advanceCursor s).rcur = s.rcur + 1 := rfl
@[simp] theorem advanceCursor_cmd (s : State) : (advanceCursor s).cmd = s.cmd := rfl
@[simp] theorem advanceCursor_dlen (s : State) : (advanceCursor s).dlen = s.dlen := rfl
@[simp] theorem advanceCursor_buf (s : State) : (advanceCursor s).buf = s.buf := rfl
@[simp] theorem advanceCursor_pendReboot (s : State) : (advanceCursor s).pendReboot = s.pendReboot := rfl
@[simp] theorem advanceCursor_armed (s : State) : (advanceCursor s).armed = s.armed := rfl
@[simp] theorem advanceCursor_started (s : State) : (advanceCursor s).started = s.started := rfl
@[simp] theorem advanceCursor_halted (s : State) : (advanceCursor s).halted = s.halted := rfl
@[simp] theorem advanceCursor_inputs (s : State) : (advanceCursor s).inputs = s.inputs := rfl
@[simp] theorem advanceCursor_env (s : State) : (advanceCursor s).env = s.env := rfl
@[simp] theorem advanceCursor_draws (s : State) : (advanceCursor s).draws = s.draws + (cursorUnwritten s).toNat := rfl
@[simp] theorem advanceCursor_trace (s : State) : (advanceCursor s).trace = s.trace := rfl

/-! `consume` -/

@[simp] theorem consume_pstate (r : List Event) (s : State) : (consume r s).pstate = s.pstate := rfl
@[simp] theorem consume_chk (r : List Event) (s : State) : (consume r s).chk = s.chk := rfl
@[simp] theorem consume_widx (r : List Event) (s : State) : (consume r s).widx = s.widx := rfl
@[simp] theorem consume_rcur (r : List Event) (s : State) : (consume r s).rcur = s.rcur := rfl
@[simp] theorem consume_cmd (r : List Event) (s : State) : (consume r s).cmd = s.cmd := rfl
@[simp] theorem consume_dlen (r : List Event) (s : State) : (consume r s).dlen = s.dlen := rfl
@[simp] theorem consume_buf (r : List Event) (s : State) : (consume r s).buf = s.buf := rfl
@[simp] theorem consume_pendReboot (r : List Event) (s : State) : (consume r s).pendReboot = s.pendReboot := rfl
@[simp] theorem consume_armed (r : List Event) (s : State) : (consume r s).armed = s.armed := rfl
@[simp] theorem consume_started (r : List Event) (s : State) : (consume r s).started = s.started := rfl
@[simp] theorem consume_halted (r : List Event) (s : State) : (consume r s).halted = s.halted := rfl
@[simp] theorem consume_inputs (r : List Event) (s : State) : (consume r s).inputs = r := rfl
@[simp] theorem consume_env (r : List Event) (s : State) : (consume r s).env = s.env := rfl
@[simp] theorem consume_draws (r : List Event) (s : State) : (consume r s).draws = s.draws := rfl
@[simp] theorem consume_trace (r : List Event) (s : State) : (consume r s).trace = s.trace := rfl

/-! `sample` -/

@[simp] theorem sample_pstate (e : EnvSample) (s : State) : (sample e s).pstate = s.pstate := rfl
@[simp] theorem sample_chk (e : EnvSample) (s : State) : (sample e s).chk = s.chk := rfl
@[simp] theorem sample_widx (e : EnvSample) (s : State) : (sample e s).widx = s.widx := rfl
@[simp] theorem sample_rcur (e : EnvSample) (s : State) : (sample e s).rcur = s.rcur := rfl
@[simp] theorem sample_cmd (e : EnvSample) (s : State) : (sample e s).cmd = s.cmd := rfl
@[simp] theorem sample_dlen (e : EnvSample) (s : State) : (sample e s).dlen = s.dlen := rfl
@[simp] theorem sample_buf (e : EnvSample) (s : State) : (sample e s).buf = s.buf := rfl
@[simp] theorem sample_pendReboot (e : EnvSample) (s : State) : (sample e s).pendReboot = s.pendReboot := rfl
@[simp] theorem sample_armed (e : EnvSample) (s : State) : (sample e s).armed = s.armed := rfl
@[simp] theorem sample_started (e : EnvSample) (s : State) : (sample e s).started = s.started := rfl
@[simp] theorem sample_halted (e : EnvSample) (s : State) : (sample e s).halted = s.halted := rfl
@[simp] theorem sample_inputs (e : EnvSample) (s : State) : (sample e s).inputs = s.inputs := rfl
@[simp] theorem sample_env (e : EnvSample) (s : State) : (sample e s).env = e := rfl
@[simp] theorem sample_draws (e : EnvSample) (s : State) : (sample e s).draws = s.draws := rfl
@[simp] theorem sample_trace (e : EnvSample) (s : State) : (sample e s).trace = s.trace := rfl

end Sys2Proof.Machine
end

