-- ==== Sys2Proof/Laws/Operands.lean ====
section
/-! SUPPORT. What the payload accessors do, said once (spec/40_serializer.md R87 to R89; spec/20_memory.md R52). -/

namespace Sys2Proof.Machine

/-- `s` after `k` bytes have been read at the cursor. -/
def State.advanced (s : State) (k : Nat) : State :=
  { s with rcur := s.rcur + BitVec.ofNat 8 k, draws := s.draws + s.unwrittenFrom s.rcur.toNat k }

theorem State.unwrittenFrom_succ (s : State) (a k : Nat) :
    s.unwrittenFrom a (k + 1) = s.unwrittenFrom a k + (s.buf.read (a + k)).isNone.toNat := by
  simp only [State.unwrittenFrom, List.range_succ, List.filter_append, List.length_append]
  cases h : (s.buf.read (a + k)).isNone <;> simp [h]

@[simp] theorem State.unwrittenFrom_zero (s : State) (a : Nat) : s.unwrittenFrom a 0 = 0 := rfl

@[simp] theorem State.advanced_zero (s : State) : s.advanced 0 = s := by simp [State.advanced]

/-- Where every byte was written since reset, no free byte is drawn. -/
theorem State.unwrittenFrom_eq_zero (s : State) (a k : Nat) (h : ∀ j, j < k → (s.buf.read (a + j)).isSome) :
    s.unwrittenFrom a k = 0 := by
  induction k with
  | zero => rfl
  | succ k ih =>
    have hk := h k (Nat.lt_succ_self k)
    rw [State.unwrittenFrom_succ, ih fun j hj => h j (Nat.lt_succ_of_lt hj)]
    cases hr : s.buf.read (a + k) with
    | none => simp [hr] at hk
    | some _ => rfl

/-- The next read after `k` of them. -/
theorem read8_advanced (s : State) (k : Nat) (h : s.rcur.toNat + k < 256) :
    read8 (s.advanced k) = (s.byteFrom s.rcur.toNat k, s.advanced (k + 1)) := by
  have hr : (s.rcur + BitVec.ofNat 8 k).toNat = s.rcur.toNat + k := by
    rw [BitVec.toNat_add, BitVec.toNat_ofNat]
    omega
  have hk : BitVec.ofNat 8 (k + 1) = BitVec.ofNat 8 k + 1 := by
    rw [BitVec.ofNat_add]
    rfl
  simp only [read8, cursorByte, advanceCursor, cursorUnwritten, State.advanced, State.byteFrom, hr,
    State.unwrittenFrom_succ, hk, BitVec.add_assoc, Nat.add_assoc]

theorem read16_advanced (s : State) (k : Nat) (h : s.rcur.toNat + k + 1 < 256) :
    read16 (s.advanced k) =
      (s.byteFrom s.rcur.toNat (k + 1) ++ s.byteFrom s.rcur.toNat k, s.advanced (k + 2)) := by
  simp [read16, read8_advanced s k (by omega), read8_advanced s (k + 1) (by omega), word16Of]

theorem read32_advanced (s : State) (k : Nat) (h : s.rcur.toNat + k + 3 < 256) :
    read32 (s.advanced k) =
      ((s.byteFrom s.rcur.toNat (k + 3) ++ s.byteFrom s.rcur.toNat (k + 2)) ++
        (s.byteFrom s.rcur.toNat (k + 1) ++ s.byteFrom s.rcur.toNat k), s.advanced (k + 4)) := by
  simp [read32, read8_advanced s k (by omega), read8_advanced s (k + 1) (by omega),
    read8_advanced s (k + 2) (by omega), read8_advanced s (k + 3) (by omega), word32Of]

/-- The first loop turn, or one more. -/
theorem readShorts_succ (n : Nat) (s : State) :
    readShorts (n + 1) s = ((readShorts n s).1.push (read16 (readShorts n s).2).1, (read16 (readShorts n s).2).2) :=
  rfl

/-- Where `n` shorts leave the state. -/
theorem readShorts_state (s : State) (n : Nat) (h : s.rcur.toNat + 2 * n ≤ 256) :
    (readShorts n s).2 = s.advanced (2 * n) := by
  induction n with
  | zero => simp [readShorts]
  | succ n ih =>
    rw [readShorts_succ, ih (by omega), read16_advanced s (2 * n) (by omega)]
    rfl

/-- The shorts read, one turn of the loop at a time. -/
theorem readShorts_values (s : State) (n : Nat) (h : s.rcur.toNat + 2 * n + 2 ≤ 256) :
    (readShorts (n + 1) s).1 =
      (readShorts n s).1.push
        (s.byteFrom s.rcur.toNat (2 * n + 1) ++ s.byteFrom s.rcur.toNat (2 * n)) := by
  rw [readShorts_succ, readShorts_state s n (by omega), read16_advanced s (2 * n) (by omega)]

/-- A dispatch's first reads are those of the payload from index 0 on (R130). -/
theorem beginDispatch_byteFrom (s : State) (k : Nat) : (beginDispatch s).byteFrom 0 k = s.payloadByte k := rfl

end Sys2Proof.Machine
end

