-- ==== Sys2Proof/Laws/Serializer.lean ====
section
/-! SUPPORT. What the serializer's operations do, said once: each emits a byte sequence and XORs it into the accumulator
(spec/40_serializer.md R80 to R86).
-/

namespace Sys2Proof.Machine

/-- `body` emits exactly `bs` through the serializer and changes nothing else. -/
def Emits (body : State → State) (bs : List Byte) : Prop :=
  ∀ t : State, body t = { t with trace := t.trace ++ txs bs, chk := t.chk ^^^ xorAll bs }

/-- A serializer call after another emits the concatenation. -/
theorem Emits.comp {f g : State → State} {as bs : List Byte} (hf : Emits f as) (hg : Emits g bs) :
    Emits (fun t => g (f t)) (as ++ bs) := fun t => by
  simp [hf t, hg _, BitVec.xor_assoc]

theorem emits_id : Emits id [] := fun t => by simp

theorem writeByte_emits (v : Byte) : Emits (writeByte v) [v] := fun t => by
  simp [writeByte, xorChk, emit, out]

theorem writeShort_emits (v : Word16) : Emits (writeShort v) (le16 v) := by
  rw [le16_eq]
  exact (writeByte_emits _).comp (writeByte_emits _)

theorem writeLong_emits (v : Word32) : Emits (writeLong v) (le32 v) := by
  rw [le32_eq]
  exact (((writeByte_emits _).comp (writeByte_emits _)).comp (writeByte_emits _)).comp (writeByte_emits _)

theorem writeBuffer_emits (bs : List Byte) : Emits (writeBuffer bs) bs := by
  induction bs with
  | nil => exact emits_id
  | cons b bs ih => exact (writeByte_emits b).comp ih

theorem writeShorts_emits (vs : List Word16) : Emits (writeShorts vs) (vs.flatMap le16) := by
  induction vs with
  | nil => exact emits_id
  | cons v vs ih => exact (writeShort_emits v).comp ih

/-- The header leaves `n ^ cmd` in the accumulator (R84). -/
theorem headReply_eq (ok : Bool) (n : Byte) (s : State) :
    headReply ok n s =
      { s with
        trace := s.trace ++ txs [startMarker, protocolLetter, statusByte ok, n, s.cmd], chk := n ^^^ s.cmd } := by
  simp [headReply, writeByte_emits _ _, clearChk]

/-- The trailer emits the accumulator and leaves 0 (R85). -/
theorem tailReply_eq (s : State) : tailReply s = { s with trace := s.trace ++ [.tx s.chk], chk := 0 } := by
  simp [tailReply, writeByte_emits _ _]

/-- A whole reply (R86): the frame on the trace, and 0 in the accumulator. -/
theorem reply_eq {body : State → State} {bs : List Byte} (ok : Bool) (h : Emits body bs) (s : State) :
    reply ok (BitVec.ofNat 8 bs.length) body s =
      { s with trace := s.trace ++ txs (replyFrame ok s.cmd bs), chk := 0 } := by
  simp [reply, headReply_eq, h _, tailReply_eq, replyFrame, frameBytes, frameChecksum]

/-- A dispatch that only answers (R130 to R138, R142, R143). -/
theorem reply_beginDispatch {body : State → State} {bs : List Byte} (ok : Bool) (n : Byte) (h : Emits body bs)
    (hn : n = BitVec.ofNat 8 bs.length) (s : State) : reply ok n body (beginDispatch s) = s.replied ok bs := by
  rw [hn, reply_eq ok h]
  rfl

/-- `Reply(ok, 0, -)`. -/
theorem emptyReply_eq (ok : Bool) (s : State) :
    emptyReply ok s = { s with trace := s.trace ++ txs (replyFrame ok s.cmd []), chk := 0 } :=
  reply_eq ok emits_id s

end Sys2Proof.Machine
end

