-- ==== Sys2Proof/Laws/Dispatch.lean ====
section
/-! SUPPORT. What a dispatch can do, said once for every frame (spec/42_dispatch.md R130, R145): the collaborator events of
its handler, then one reply.
-/

namespace Sys2Proof.Machine

/-- What a frame's handler answers in state `s`: its collaborator events, the reply's status and payload, where the
cursor ends, how many free bytes it draws, and the pending-reboot flag afterwards. -/
structure HandlerResult where
  before : List Output
  ok : Bool
  payload : List Byte
  cursor : Byte
  drawn : Nat
  pending : Bool

/-- The state after a handler with the given result (R145). -/
def HandlerResult.apply (r : HandlerResult) (s : State) : State :=
  { s with
    rcur := r.cursor, chk := 0, draws := s.draws + r.drawn, pendReboot := r.pending,
    trace := s.trace ++ r.before ++ txs (replyFrame r.ok s.cmd r.payload) }

/-- A handler that only answers. -/
def answerResult (s : State) (ok : Bool) (payload : List Byte) : HandlerResult :=
  { before := [], ok := ok, payload := payload, cursor := 0, drawn := 0, pending := s.pendReboot }

/-- The 8 channel values of SET_RAW_RC (R139). -/
def rawRcValues (s : State) : Vector Word16 8 :=
  #v[s.payloadShort 0, s.payloadShort 2, s.payloadShort 4, s.payloadShort 6,
    s.payloadShort 8, s.payloadShort 10, s.payloadShort 12, s.payloadShort 14]

/-- The 4 setter calls of SET_MOTOR (R140). -/
def motorCalls (s : State) : List Output :=
  [.motorSet 0 (s.payloadShort 0), .motorSet 1 (s.payloadShort 2),
    .motorSet 2 (s.payloadShort 4), .motorSet 3 (s.payloadShort 6)]

/-- The result of each instruction's handler; the single bytes have none. -/
def handlerResult (i : Instr) (s : State) : Option HandlerResult :=
  match i with
  | .status _ => some (answerResult s true (le16 s.env.cycleTime ++ le16 s.env.errCount ++ List.replicate 7 0#8))
  | .rawImu _ => some (answerResult s true ((imuValues Config.accScale s.env.imu).flatMap le16))
  | .motor _ => some (answerResult s true (s.env.motor.toList.flatMap le16))
  | .rc _ => some (answerResult s true (s.env.rc.toList.flatMap le16))
  | .attitude _ =>
    some (answerResult s true ([s.env.angle[0], s.env.angle[1], s.env.heading].flatMap le16))
  | .altitude _ => some (answerResult s true (le32 s.env.altitude ++ le16 s.env.vario))
  | .px4flow _ => some (answerResult s (px4flowOk Config.px4flowMode) [])
  | .mb1242 _ => some (answerResult s true (le32 s.env.baro ++ le32 s.env.sonar))
  | .setRawRc _ =>
    some { answerResult s true [] with
      before := [.ctlWrite (rawRcValues s)], cursor := 16, drawn := s.unwrittenFrom 0 16 }
  | .setMotor _ =>
    some { answerResult s true [] with before := motorCalls s, cursor := 8, drawn := s.unwrittenFrom 0 8 }
  | .reboot _ => some { answerResult s true [] with pending := true }
  | .buildInfo _ => some (answerResult s true (Config.buildDate.toList ++ List.replicate 8 0#8))
  | .unknown _ _ => some (answerResult s false [])
  | .start => none
  | .noop => none
  | .boot => none

theorem answerResult_apply (s : State) (ok : Bool) (payload : List Byte) :
    (answerResult s ok payload).apply s = s.replied ok payload := by
  simp [answerResult, HandlerResult.apply, State.replied]

/-- A handler whose body emits `bs` and that does nothing else. -/
theorem next_answer {body : State → State} {bs : List Byte} (ok : Bool) (n : Byte) (h : Emits body bs)
    (hn : n = BitVec.ofNat 8 bs.length) (s : State) :
    (Host.Outcome.next (reply ok n body (beginDispatch s)) : Host.Outcome State Fault Refusal) =
      .next ((answerResult s ok bs).apply s) := by
  rw [answerResult_apply, reply_beginDispatch ok n h hn]

theorem readShorts_eight (s : State) :
    readShorts 8 (beginDispatch s) = (rawRcValues s, (beginDispatch s).advanced 16) := by
  have h : (beginDispatch s).rcur.toNat = 0 := rfl
  refine Prod.ext ?_ (readShorts_state (beginDispatch s) 8 (by omega))
  rw [readShorts_values _ 7 (by omega), readShorts_values _ 6 (by omega), readShorts_values _ 5 (by omega),
    readShorts_values _ 4 (by omega), readShorts_values _ 3 (by omega), readShorts_values _ 2 (by omega),
    readShorts_values _ 1 (by omega), readShorts_values _ 0 (by omega)]
  rfl

/-- One turn of SET_MOTOR's loop, `k` bytes into the payload. -/
theorem setMotorChannel_advanced (i : Fin 4) (s : State) (k : Nat) (es : List Output) (hr : s.rcur = 0)
    (hk : k + 1 < 256) :
    setMotorChannel i { s.advanced k with trace := es } =
      { s.advanced (k + 2) with trace := es ++ [.motorSet i (s.payloadShort k)] } := by
  have h : { s.advanced k with trace := es } = ({ s with trace := es } : State).advanced k := rfl
  have h0 : ({ s with trace := es } : State).rcur.toNat = 0 := by simp [hr]
  rw [setMotorChannel, h, read16_advanced _ k (by omega), h0]
  rfl

/-- What every frame's dispatch does: the handler's result, applied. -/
theorem exec_frame (i : Instr) (s : State) (r : HandlerResult) (h : handlerResult i s = some r) :
    exec i s = .next (r.apply s) := by
  cases i <;> simp only [handlerResult, Option.some.injEq, reduceCtorEq] at h <;> subst h
  case status p =>
    refine next_answer true _ ?_ (by simp [le16]) s
    have h0 : le16 0#16 = [0#8, 0#8] := by decide
    have h1 : le32 0#32 = [0#8, 0#8, 0#8, 0#8] := by decide
    simpa [h0, h1] using
      ((((writeShort_emits s.env.cycleTime).comp (writeShort_emits s.env.errCount)).comp (writeShort_emits 0)).comp
        (writeLong_emits 0)).comp (writeByte_emits 0)
  case rawImu p => exact next_answer true _ (writeShorts_emits _) (by simp [imuValues, le16]) s
  case motor p =>
    refine next_answer true _ (writeShorts_emits _) ?_ s
    simp [List.length_flatMap, le16, Function.const_def]
  case rc p =>
    refine next_answer true _ (writeShorts_emits _) ?_ s
    simp [List.length_flatMap, le16, Function.const_def]
  case attitude p => exact next_answer true _ (writeShorts_emits _) (by simp [le16]) s
  case altitude p =>
    exact next_answer true _ ((writeLong_emits _).comp (writeShort_emits _)) (by simp [le16, le32]) s
  case px4flow p => exact next_answer _ _ emits_id (by simp) s
  case mb1242 p =>
    exact next_answer true _ ((writeLong_emits _).comp (writeLong_emits _)) (by simp [le32]) s
  case setRawRc p =>
    simp only [exec, execSetRawRc, readShorts_eight, emptyReply_eq]
    simp [HandlerResult.apply, answerResult, out, State.advanced, beginDispatch]
    rfl
  case setMotor p =>
    have h0 : beginDispatch s = { (beginDispatch s).advanced 0 with trace := s.trace } := by simp [beginDispatch]
    simp only [exec, execSetMotor]
    rw [h0, setMotorChannel_advanced 0 _ 0 _ rfl (by decide), setMotorChannel_advanced 1 _ 2 _ rfl (by decide),
      setMotorChannel_advanced 2 _ 4 _ rfl (by decide), setMotorChannel_advanced 3 _ 6 _ rfl (by decide),
      emptyReply_eq]
    simp [HandlerResult.apply, answerResult, State.advanced, beginDispatch, motorCalls]
    exact ⟨rfl, rfl, rfl, rfl, rfl⟩
  case reboot p =>
    simp only [exec, execReboot, emptyReply_eq]
    simp [HandlerResult.apply, answerResult, setPendReboot, beginDispatch]
  case buildInfo p =>
    refine next_answer true _ ?_ (by simp) s
    have h1 : le32 0#32 = [0#8, 0#8, 0#8, 0#8] := by decide
    simpa [h1] using ((writeBuffer_emits Config.buildDate.toList).comp (writeLong_emits 0)).comp (writeLong_emits 0)
  case unknown c p => exact next_answer false _ emits_id (by simp) s

/-- Every frame has a handler. -/
theorem handlerResult_isSome (i : Instr) (s : State) (h : isFrame i = true) : ∃ r, handlerResult i s = some r := by
  cases i <;> first | exact ⟨_, rfl⟩ | exact absurd h (by decide)

end Sys2Proof.Machine
end

