-- ==== Sys2Proof/Laws/Memory.lean ====
section
/-! SUPPORT. The laws of byte memory: what a write does to every read, and that it keeps the canonical form. -/

namespace Sys2Proof.Machine

@[simp] theorem Memory.read_nil (i : Nat) : Memory.read [] i = none := rfl

/-- A write is read back, and every other index reads as before. -/
theorem Memory.read_write (m : Memory) (i j : Nat) (b : Byte) :
    (m.write i b).read j = if j = i then some b else m.read j := by
  induction m with
  | nil => simp [Memory.write, Memory.read, eq_comm]
  | cons c rest ih =>
    unfold Memory.write
    split
    · simp [Memory.read, eq_comm]
    · split
      · subst i
        by_cases h : j = c.1 <;> simp [Memory.read, h, eq_comm]
      · by_cases hc : c.1 = j
        · have h : ¬ j = i := by omega
          simp [Memory.read, hc, h]
        · simp [Memory.read, hc, ih]

/-- The canonical form of a list with a head: the head's index is below every other, and the tail is canonical. -/
theorem Memory.wf_cons (c : Host.Cell) (m : Memory) :
    Memory.wf (c :: m) = true ↔ (∀ d ∈ m, c.1 < d.1) ∧ m.wf = true := by
  induction m generalizing c with
  | nil => simp [Memory.wf]
  | cons d rest ih =>
    rw [Memory.wf, Bool.and_eq_true, decide_eq_true_iff]
    constructor
    · intro h
      refine ⟨fun e he => ?_, h.2⟩
      rcases List.mem_cons.1 he with rfl | he
      · exact h.1
      · exact Nat.lt_trans h.1 (((ih d).1 h.2).1 e he)
    · intro h
      exact ⟨h.1 d List.mem_cons_self, h.2⟩

/-- What a write lists: the index written, or an index that was listed. -/
theorem Memory.mem_write (m : Memory) (i : Nat) (b : Byte) (d : Host.Cell) (h : d ∈ m.write i b) :
    d = (i, b) ∨ d ∈ m := by
  induction m with
  | nil => simpa [Memory.write] using h
  | cons c rest ih =>
    unfold Memory.write at h
    split at h
    · simpa using h
    · split at h
      · rcases List.mem_cons.1 h with h | h
        · exact .inl h
        · exact .inr (List.mem_cons_of_mem _ h)
      · rcases List.mem_cons.1 h with h | h
        · exact .inr (h ▸ List.mem_cons_self)
        · exact (ih h).imp id (List.mem_cons_of_mem _)

/-- A write keeps the canonical form. -/
theorem Memory.wf_write (m : Memory) (i : Nat) (b : Byte) (h : m.wf = true) : (m.write i b).wf = true := by
  induction m with
  | nil => rfl
  | cons c rest ih =>
    obtain ⟨hlt, hrest⟩ := (Memory.wf_cons c rest).1 h
    unfold Memory.write
    split
    · refine (Memory.wf_cons _ _).2 ⟨fun d hd => ?_, h⟩
      rcases List.mem_cons.1 hd with rfl | hd
      · assumption
      · exact Nat.lt_trans ‹_› (hlt d hd)
    · split
      · refine (Memory.wf_cons _ _).2 ⟨fun d hd => ?_, hrest⟩
        have := hlt d hd
        simp only
        omega
      · refine (Memory.wf_cons _ _).2 ⟨fun d hd => ?_, ih hrest⟩
        rcases Memory.mem_write rest i b d hd with rfl | hd
        · simp only
          omega
        · exact hlt d hd

/-- Every index listed by a write is below a bound that held before and holds of the index written. -/
theorem Memory.write_below (m : Memory) (i n : Nat) (b : Byte) (hm : ∀ c ∈ m, c.1 < n) (hi : i < n) :
    ∀ c ∈ m.write i b, c.1 < n := by
  intro c hc
  rcases Memory.mem_write m i b c hc with rfl | hc
  · exact hi
  · exact hm c hc

/-- The first bytes depend on the reads alone. -/
theorem Memory.firstBytes_congr (m m' : Memory) (n : Nat) (h : ∀ i, i < n → m.read i = m'.read i) :
    m.firstBytes n = m'.firstBytes n := by
  simp only [Memory.firstBytes]
  exact List.filterMap_congr fun i hi => h i (List.mem_range.1 hi)

/-- The first `n + 1` bytes are the first `n` and the byte at `n`, if it was written. -/
theorem Memory.firstBytes_succ (m : Memory) (n : Nat) :
    m.firstBytes (n + 1) = m.firstBytes n ++ (m.read n).toList := by
  simp only [Memory.firstBytes, List.range_succ, List.filterMap_append]
  cases h : m.read n <;> simp [h]

/-- As many bytes as asked for, where all of them were written. -/
theorem Memory.length_firstBytes (m : Memory) (n : Nat) (h : ∀ i, i < n → (m.read i).isSome) :
    (m.firstBytes n).length = n := by
  induction n with
  | zero => rfl
  | succ n ih =>
    rw [Memory.firstBytes_succ, List.length_append, ih fun i hi => h i (Nat.lt_succ_of_lt hi)]
    obtain ⟨b, hb⟩ := Option.isSome_iff_exists.1 (h n (Nat.lt_succ_self n))
    simp [hb]

end Sys2Proof.Machine
end

