-- ==== Sys2Proof/Laws/Step.lean ====
section
/-! SUPPORT. What a step can do, said once: one case per rule of spec/41_parser.md and spec/43_driver.md. -/

namespace Sys2Proof.Machine

/-- The id of a frame selects an instruction that arrives as a frame (R130). -/
theorem isFrame_ofCommand (c : Byte) (p : List Byte) : isFrame (Instr.ofCommand c p) = true := by
  simp only [Instr.ofCommand, apply_ite isFrame]
  simp [isFrame, isIdleByte]

/-- REBOOT_CHAR is neither the start marker nor the no-op byte (R7). -/
theorem rebootCharAt_ne (i : Fin 254) :
    Config.rebootCharAt i ≠ startMarker ∧ Config.rebootCharAt i ≠ noopByte := by
  have hi := i.isLt
  unfold Config.rebootCharAt startMarker noopByte
  constructor <;> intro h <;> have h' := congrArg BitVec.toNat h <;> split at h' <;>
    simp only [BitVec.toNat_ofNat] at h' <;> omega

theorem rebootChar_ne : Config.rebootChar ≠ startMarker ∧ Config.rebootChar ≠ noopByte := rebootCharAt_ne _

/-- CAPACITY is 19 to 255 (R6). -/
theorem capacity_bounds : 19 ≤ Config.capacity ∧ Config.capacity ≤ 255 := by
  have := Config.capacityAboveMin.isLt
  unfold Config.capacity
  omega

/-- The transitions of R116, each with the state it ends in. -/
inductive ParseStep (b : Byte) (s : State) : State → Prop where
  /-- R101. -/
  | start : s.pstate = .idle → b = startMarker → ParseStep b s (goto .headerStart s)
  /-- R104. -/
  | boot : s.pstate = .idle → b = Config.rebootChar → s.armed = false → ParseStep b s (sysReset .bootloader s)
  /-- R102, R103, R105. -/
  | ignored : s.pstate = .idle → b ≠ startMarker → (b = Config.rebootChar → s.armed = true) → ParseStep b s s
  /-- R106. -/
  | letter : s.pstate = .headerStart → b = protocolLetter → ParseStep b s (goto .headerM s)
  /-- R107. -/
  | badLetter : s.pstate = .headerStart → b ≠ protocolLetter → ParseStep b s (raiseDrop .desync s)
  /-- R108. -/
  | direction : s.pstate = .headerM → b = inboundArrow → ParseStep b s (goto .headerArrow s)
  /-- R109. -/
  | badDirection : s.pstate = .headerM → b ≠ inboundArrow → ParseStep b s (raiseDrop .desync s)
  /-- R110. -/
  | oversized : s.pstate = .headerArrow → Config.capacity < b.toNat → ParseStep b s (raiseDrop .oversize s)
  /-- R111. -/
  | length : s.pstate = .headerArrow → b.toNat ≤ Config.capacity →
      ParseStep b s { s with dlen := b, widx := 0, chk := b, pstate := .headerSize }
  /-- R112. -/
  | command : s.pstate = .headerSize → ParseStep b s { s with chk := s.chk ^^^ b, cmd := b, pstate := .headerCmd }
  /-- R113. -/
  | payload : s.pstate = .headerCmd → s.widx < s.dlen → s.widx.toNat < Config.capacity →
      ParseStep b s
        { s with chk := s.chk ^^^ b, buf := s.buf.write s.widx.toNat b, widx := s.widx + 1 }
  /-- R114. -/
  | dispatched (r : HandlerResult) : s.CompletesFrame b →
      handlerResult (Instr.ofCommand s.cmd (framePayload s)) s = some r →
      ParseStep b s (goto .idle (r.apply s))
  /-- R115. -/
  | mismatch : s.pstate = .headerCmd → s.widx = s.dlen → b ≠ s.chk → ParseStep b s (raiseDrop .checksum s)

theorem acceptLength_eq (b : Byte) (s : State) :
    acceptLength b s = { s with dlen := b, widx := 0, chk := b, pstate := .headerSize } := by
  simp [acceptLength, goto, xorChk, clearChk]

/-- A completed frame is dispatched, and the parser is in IDLE afterwards. -/
theorem dispatch_eq (s : State) (r : HandlerResult)
    (h : handlerResult (Instr.ofCommand s.cmd (framePayload s)) s = some r) :
    dispatch s = .next (goto .idle (r.apply s)) := by
  simp [dispatch, exec_frame _ s r h, thenState]

theorem parseIdle_eq (b : Byte) (s : State) :
    parseIdle Config.rebootChar b s =
      .next (if b = startMarker then goto .headerStart s
        else if b = Config.rebootChar then (if s.armed then s else sysReset .bootloader s) else s) := by
  by_cases h1 : b = startMarker
  · simp [parseIdle, decodeIdle, h1, exec, execStart]
  · by_cases h2 : b = noopByte
    · have : ¬ noopByte = Config.rebootChar := fun h => rebootChar_ne.2 h.symm
      have h3 : ¬ noopByte = startMarker := by decide
      simp [parseIdle, decodeIdle, h2, h3, exec, execNoop, this]
    · by_cases h3 : b = Config.rebootChar
      · have h4 : ¬ Config.rebootChar = startMarker := rebootChar_ne.1
        have h5 : ¬ Config.rebootChar = noopByte := rebootChar_ne.2
        cases h : s.armed <;> simp [parseIdle, decodeIdle, h3, h4, h5, exec, execBoot, h]
      · simp [parseIdle, decodeIdle, h1, h2, h3]

/-- A run goes on from the state its first step leads to. -/
theorem run_succ {s t : State} (k : Nat) (h : step s = .next t) :
    Host.Core.run core (k + 1) s = Host.Core.run core k t := by
  have h' : core.step s = .next t := h
  simp only [Host.Core.run, h']

/-! ## The parser, state by state -/

theorem parse_idle {s : State} (b : Byte) (h : s.pstate = .idle) : parse b s = parseIdle Config.rebootChar b s := by
  simp only [parse, h]

theorem parse_headerStart {s : State} (b : Byte) (h : s.pstate = .headerStart) :
    parse b s = .next (parseLetter b s) := by
  simp only [parse, h]

theorem parse_headerM {s : State} (b : Byte) (h : s.pstate = .headerM) : parse b s = .next (parseDirection b s) := by
  simp only [parse, h]

theorem parse_headerArrow {s : State} (b : Byte) (h : s.pstate = .headerArrow) :
    parse b s = .next (parseLength Config.capacity b s) := by
  simp only [parse, h]

theorem parse_headerSize {s : State} (b : Byte) (h : s.pstate = .headerSize) : parse b s = .next (parseId b s) := by
  simp only [parse, h]

theorem parse_headerCmd {s : State} (b : Byte) (h : s.pstate = .headerCmd) :
    parse b s = parseBody Config.capacity b s := by
  simp only [parse, h]

/-- A parser step that has a next state is one of the transitions. -/
theorem parse_next {b : Byte} {s t : State} (h : parse b s = .next t) : ParseStep b s t := by
  unfold parse at h
  cases hp : s.pstate <;> simp only [hp] at h
  case idle =>
    rw [parseIdle_eq] at h
    cases h
    split
    · exact .start hp ‹_›
    · split
      · split
        · exact .ignored hp ‹_› fun _ => ‹_›
        · exact .boot hp ‹_› (by simpa using ‹¬ s.armed = true›)
      · exact .ignored hp ‹_› fun h => absurd h ‹_›
  case headerStart =>
    cases h
    unfold parseLetter
    split
    · exact .letter hp ‹_›
    · exact .badLetter hp ‹_›
  case headerM =>
    cases h
    unfold parseDirection
    split
    · exact .direction hp ‹_›
    · exact .badDirection hp ‹_›
  case headerArrow =>
    cases h
    unfold parseLength
    split
    · exact .oversized hp ‹_›
    · rw [acceptLength_eq]
      exact .length hp (Nat.le_of_not_lt ‹_›)
  case headerSize =>
    cases h
    exact .command hp
  case headerCmd =>
    unfold parseBody at h
    split at h
    · unfold storePayload at h
      split at h
      · cases h
        exact .payload hp ‹_› ‹_›
      · cases h
    · split at h
      · unfold parseChecksum at h
        split at h
        · obtain ⟨r, hr⟩ :=
            handlerResult_isSome (Instr.ofCommand s.cmd (framePayload s)) s (isFrame_ofCommand _ _)
          rw [dispatch_eq s r hr] at h
          cases h
          exact .dispatched r ⟨hp, ‹_›, ‹_›⟩ hr
        · cases h
          exact .mismatch hp ‹_› ‹_›
      · cases h

/-- Every transition is taken: the converse of `parse_next`. -/
theorem parse_of_parseStep {b : Byte} {s t : State} (h : ParseStep b s t) : parse b s = .next t := by
  cases h with
  | start hp hb => simp [parse, hp, parseIdle_eq, hb]
  | boot hp hb ha => simp [parse, hp, parseIdle_eq, hb, ha, rebootChar_ne.1]
  | ignored hp hb ha =>
    by_cases hc : b = Config.rebootChar
    · subst hc
      simp [parse, hp, parseIdle_eq, rebootChar_ne.1, ha rfl]
    · simp [parse, hp, parseIdle_eq, hb, hc]
  | letter hp hb => simp [parse, hp, parseLetter, hb]
  | badLetter hp hb => simp [parse, hp, parseLetter, hb]
  | direction hp hb => simp [parse, hp, parseDirection, hb]
  | badDirection hp hb => simp [parse, hp, parseDirection, hb]
  | oversized hp hb => simp [parse, hp, parseLength, hb]
  | length hp hb => simp [parse, hp, parseLength, Nat.not_lt.2 hb, acceptLength_eq]
  | command hp =>
    simp only [parse, hp]
    rfl
  | payload hp hw hc =>
    simp only [parse, hp, parseBody, if_pos hw, storePayload, if_pos hc]
    rw [← hp]
    rfl
  | dispatched r hc hr =>
    obtain ⟨hp, hw, hb⟩ := hc
    have hlt : ¬ s.dlen < s.dlen := BitVec.lt_irrefl _
    simp only [parse, hp, parseBody, hw, if_neg hlt, if_true, parseChecksum, hb, dispatch_eq s r hr]
  | mismatch hp hw hb =>
    have hlt : ¬ s.dlen < s.dlen := BitVec.lt_irrefl _
    simp only [parse, hp, parseBody, hw, if_neg hlt, if_true, parseChecksum, if_neg hb]

/-- A byte that has a step goes to the parser (R161). -/
theorem step_of_receives {s : State} {b : Byte} {env : EnvSample} {rest : List Event} (h : s.Receives b env rest) :
    step s = parse b (s.taking env rest) := by
  simp [step, driverStep, h.running, h.offered, handle, receive, sample, consume, h.started, State.taking]

/-- A running block takes an Invoke (R160). -/
theorem step_of_invoke {s : State} {a : Bool} {rest : List Event} (hh : s.halted = none)
    (hi : s.inputs = .invoke a :: rest) : step s = .next (invoke a (consume rest s)) := by
  simp [step, driverStep, hh, hi, handle]

/-- What a step with a next state was: an Invoke, or a byte that went through one transition of the parser. -/
theorem step_next_cases {s t : State} (h : step s = .next t) :
    (∃ a rest, s.halted = none ∧ s.inputs = .invoke a :: rest ∧ t = invoke a (consume rest s)) ∨
    (∃ b env rest, s.Receives b env rest ∧ ParseStep b (s.taking env rest) t) := by
  cases hh : s.halted with
  | some m => simp [step, driverStep, hh] at h
  | none =>
    cases hi : s.inputs with
    | nil => simp [step, driverStep, hh, hi] at h
    | cons e rest =>
      cases e with
      | invoke a =>
        rw [step_of_invoke hh hi] at h
        cases h
        exact .inl ⟨a, rest, rfl, rfl, rfl⟩
      | rx b env =>
        cases hs : s.started with
        | false => simp [step, driverStep, hh, hi, handle, receive, sample, consume, hs] at h
        | true =>
          have hr : s.Receives b env rest := ⟨hh, hs, hi⟩
          rw [step_of_receives hr] at h
          exact .inr ⟨b, env, rest, hr, parse_next h⟩

end Sys2Proof.Machine
end

