-- ==== Sys2Proof/Laws/Decode.lean ====
section
/-! SUPPORT. What the frame decoder does with a frame, said once (spec/30_encoding.md R61, R62, R70). -/

namespace Sys2Proof

/-- A frame whose payload fits is accepted up to its checksum byte, and that byte decides. -/
theorem decodeFrame_body (capacity : Nat) (cmd c : Byte) (p rest : List Byte) (hp : p.length ≤ capacity)
    (h8 : p.length ≤ 255) :
    decodeFrame capacity
        ([startMarker, protocolLetter, inboundArrow, BitVec.ofNat 8 p.length, cmd] ++ p ++ c :: rest) =
      if c = frameChecksum cmd p then .ok (Instr.ofCommand cmd p, rest) else .error .badChecksum := by
  have hl : (BitVec.ofNat 8 p.length).toNat = p.length := by
    rw [BitVec.toNat_ofNat]
    omega
  have hn : ¬ capacity < p.length := Nat.not_lt.2 hp
  simp only [decodeFrame, decodeLetter, decodeDirection, decodeLength, decodePayload, List.cons_append,
    List.nil_append, if_true, hl, if_neg hn, List.drop_append_of_le_length (Nat.le_refl _), List.drop_length,
    List.take_append_of_le_length (Nat.le_refl _), List.take_length]

/-- What a frame the decoder accepts looks like. -/
theorem decodeFrame_ok {capacity : Nat} {bytes rest : List Byte} {i : Instr}
    (h : decodeFrame capacity bytes = .ok (i, rest)) :
    ∃ cmd p, p.length ≤ capacity ∧ i = Instr.ofCommand cmd p ∧ bytes = inboundFrame cmd p ++ rest := by
  unfold decodeFrame at h
  split at h
  · cases h
  split at h <;> [skip; cases h]
  unfold decodeLetter at h
  split at h
  · cases h
  split at h <;> [skip; cases h]
  unfold decodeDirection at h
  split at h
  · cases h
  split at h <;> [skip; cases h]
  unfold decodeLength at h
  split at h
  · cases h
  rename_i len r4
  split at h
  · cases h
  rename_i hcap
  split at h
  · cases h
  rename_i cmd r5
  unfold decodePayload at h
  split at h
  · cases h
  rename_i c r6 hdrop
  split at h <;> [skip; cases h]
  rename_i hc
  cases h
  have hlen : len.toNat < r5.length := by
    have := congrArg List.length hdrop
    simp only [List.length_drop, List.length_cons] at this
    omega
  have htake : (r5.take len.toNat).length = len.toNat := by
    rw [List.length_take]
    omega
  refine ⟨cmd, r5.take len.toNat, by omega, rfl, ?_⟩
  have hsplit : r5 = r5.take len.toNat ++ c :: rest := by
    rw [← hdrop, List.take_append_drop]
  have hofNat : BitVec.ofNat 8 len.toNat = len := by simp
  simp only [inboundFrame, frameBytes, htake, hofNat]
  subst_vars
  conv_lhs => rw [hsplit]
  simp

/-- The command-id map as a case split (R67, R130): to prove something of every id and the instruction it selects, prove
it of the 12 named ids and of every other one. -/
theorem ofCommand_cases {P : Byte → Instr → Prop} (p : List Byte)
    (status : P 0x65#8 (.status p))
    (rawImu : P 0x66#8 (.rawImu p))
    (motor : P 0x68#8 (.motor p))
    (rc : P 0x69#8 (.rc p))
    (attitude : P 0x6C#8 (.attitude p))
    (altitude : P 0x6D#8 (.altitude p))
    (px4flow : P 0x7D#8 (.px4flow p))
    (mb1242 : P 0x7E#8 (.mb1242 p))
    (setRawRc : P 0xC8#8 (.setRawRc p))
    (setMotor : P 0xD6#8 (.setMotor p))
    (reboot : P 0x44#8 (.reboot p))
    (buildInfo : P 0x45#8 (.buildInfo p))
    (unknown : ∀ c, c ∉ namedIds → P c (.unknown c p)) (c : Byte) : P c (Instr.ofCommand c p) := by
  unfold Instr.ofCommand
  by_cases h0 : c = 0x65#8
  · subst h0
    exact status
  rw [if_neg h0]
  by_cases h1 : c = 0x66#8
  · subst h1
    exact rawImu
  rw [if_neg h1]
  by_cases h2 : c = 0x68#8
  · subst h2
    exact motor
  rw [if_neg h2]
  by_cases h3 : c = 0x69#8
  · subst h3
    exact rc
  rw [if_neg h3]
  by_cases h4 : c = 0x6C#8
  · subst h4
    exact attitude
  rw [if_neg h4]
  by_cases h5 : c = 0x6D#8
  · subst h5
    exact altitude
  rw [if_neg h5]
  by_cases h6 : c = 0x7D#8
  · subst h6
    exact px4flow
  rw [if_neg h6]
  by_cases h7 : c = 0x7E#8
  · subst h7
    exact mb1242
  rw [if_neg h7]
  by_cases h8 : c = 0xC8#8
  · subst h8
    exact setRawRc
  rw [if_neg h8]
  by_cases h9 : c = 0xD6#8
  · subst h9
    exact setMotor
  rw [if_neg h9]
  by_cases h10 : c = 0x44#8
  · subst h10
    exact reboot
  rw [if_neg h10]
  by_cases h11 : c = 0x45#8
  · subst h11
    exact buildInfo
  rw [if_neg h11]
  refine unknown c ?_
  simp only [namedIds, List.mem_cons, List.not_mem_nil, or_false, not_or]
  exact ⟨h0, h1, h2, h3, h4, h5, h6, h7, h8, h9, h10, h11⟩

/-- What an id selects is well formed when the payload fits, and is encoded under that id. -/
theorem ofCommand_wf (cmd : Byte) (p : List Byte) (hp : p.length ≤ Config.capacity) :
    (Instr.ofCommand cmd p).wf = true ∧ encode (Instr.ofCommand cmd p) = inboundFrame cmd p := by
  have hf : payloadFits p = true := decide_eq_true hp
  refine ofCommand_cases (P := fun c i => i.wf = true ∧ encode i = inboundFrame c p) p
    ⟨hf, rfl⟩ ⟨hf, rfl⟩ ⟨hf, rfl⟩ ⟨hf, rfl⟩ ⟨hf, rfl⟩ ⟨hf, rfl⟩ ⟨hf, rfl⟩ ⟨hf, rfl⟩ ⟨hf, rfl⟩ ⟨hf, rfl⟩ ⟨hf, rfl⟩
    ⟨hf, rfl⟩ (fun c hc => ⟨?_, rfl⟩) cmd
  simp [Instr.wf, hf, hc]

/-- A frame is never a single byte. -/
theorem decode_frame (b c : Byte) (bs : List Byte) :
    decode (b :: c :: bs) =
      match decodeFrame Config.capacity (b :: c :: bs) with
      | .ok (i, []) => .ok i
      | .ok (_, _ :: _) => .error .trailing
      | .error e => .error e := rfl

/-- A well-formed instruction is a frame that fits, under its own id, or one of the single bytes. -/
theorem wf_cases (i : Instr) (h : i.wf = true) :
    (∃ cmd p, p.length ≤ Config.capacity ∧ i = Instr.ofCommand cmd p ∧ encode i = inboundFrame cmd p) ∨
      i = .start ∨ i = .noop ∨ i = .boot := by
  cases i with
  | start => exact .inr (.inl rfl)
  | noop => exact .inr (.inr (.inl rfl))
  | boot => exact .inr (.inr (.inr rfl))
  | unknown c p =>
    refine .inl ⟨c, p, ?_, ?_, rfl⟩
    · simp only [Instr.wf, payloadFits, Bool.and_eq_true, decide_eq_true_eq] at h
      exact h.2
    · simp only [Instr.wf, namedIds, Bool.and_eq_true, Bool.not_eq_true', List.contains_eq_mem, List.mem_cons,
        List.not_mem_nil, or_false, decide_eq_false_iff_not, not_or] at h
      simp [Instr.ofCommand, h.1]
  | _ p =>
    refine .inl ⟨_, p, ?_, ?_, rfl⟩
    · simpa [Instr.wf, payloadFits] using h
    · simp [Instr.ofCommand]

end Sys2Proof
end

