-- ==== Sys2Proof/Laws/PerInstr.lean ====
section
/-! SUPPORT. Families of statements made per instruction.

`EncodedLength`: a well-formed frame is 6 bytes and its payload, at most 6 + CAPACITY bytes; a single byte is one byte
(spec/30_encoding.md R60, R65).
-/

namespace Sys2Proof.Laws

/-- The length of an instruction's bytes. -/
def EncodedLength.Statement (i : Instr) : Prop :=
  i.wf = true →
    match i with
    | .start | .noop | .boot => (encode i).length = 1
    | .status p | .rawImu p | .motor p | .rc p | .attitude p | .altitude p | .px4flow p | .mb1242 p | .setRawRc p
    | .setMotor p | .reboot p | .buildInfo p | .unknown _ p =>
      (encode i).length = 6 + p.length ∧ (encode i).length ≤ 6 + Config.capacity

/-- Any frame whose payload fits. -/
theorem length_inboundFrame (cmd : Byte) (p : List Byte) (h : payloadFits p = true) :
    (inboundFrame cmd p).length = 6 + p.length ∧ (inboundFrame cmd p).length ≤ 6 + Config.capacity := by
  have h' : p.length ≤ Config.capacity := of_decide_eq_true h
  simp only [inboundFrame, frameBytes, List.length_append, List.length_cons, List.length_nil]
  omega

theorem EncodedLength.status (p : List Byte) : EncodedLength.Statement (.status p) := length_inboundFrame _ p
theorem EncodedLength.rawImu (p : List Byte) : EncodedLength.Statement (.rawImu p) := length_inboundFrame _ p
theorem EncodedLength.motor (p : List Byte) : EncodedLength.Statement (.motor p) := length_inboundFrame _ p
theorem EncodedLength.rc (p : List Byte) : EncodedLength.Statement (.rc p) := length_inboundFrame _ p
theorem EncodedLength.attitude (p : List Byte) : EncodedLength.Statement (.attitude p) := length_inboundFrame _ p
theorem EncodedLength.altitude (p : List Byte) : EncodedLength.Statement (.altitude p) := length_inboundFrame _ p
theorem EncodedLength.px4flow (p : List Byte) : EncodedLength.Statement (.px4flow p) := length_inboundFrame _ p
theorem EncodedLength.mb1242 (p : List Byte) : EncodedLength.Statement (.mb1242 p) := length_inboundFrame _ p
theorem EncodedLength.setRawRc (p : List Byte) : EncodedLength.Statement (.setRawRc p) := length_inboundFrame _ p
theorem EncodedLength.setMotor (p : List Byte) : EncodedLength.Statement (.setMotor p) := length_inboundFrame _ p
theorem EncodedLength.reboot (p : List Byte) : EncodedLength.Statement (.reboot p) := length_inboundFrame _ p
theorem EncodedLength.buildInfo (p : List Byte) : EncodedLength.Statement (.buildInfo p) := length_inboundFrame _ p
theorem EncodedLength.unknown (cmd : Byte) (p : List Byte) : EncodedLength.Statement (.unknown cmd p) := fun h =>
  length_inboundFrame cmd p (Bool.and_eq_true _ _ ▸ h).2
theorem EncodedLength.start : EncodedLength.Statement .start := fun _ => rfl
theorem EncodedLength.noop : EncodedLength.Statement .noop := fun _ => rfl
theorem EncodedLength.boot : EncodedLength.Statement .boot := fun _ => rfl

end Sys2Proof.Laws
end

