-- ==== Sys2Proof/Tests/Slice0.lean ====
section
/-! SUPPORT. Tests. Expected bytes are those of spec/95_test_vectors.md (ids such as D.1) and of the rules' own examples; the
witnesses show that each obligation's hypotheses can be met.
-/

namespace Sys2Proof.Tests

open Sys2Proof.Machine

/-! ## Helpers -/

/-- The reference environment ENV of 95_test_vectors.md. -/
def bench : EnvSample where
  cycleTime := 3000#16
  errCount := 0#16
  imu := #v[80#16, 0xFFF0#16, 4096#16, 1#16, 2#16, 3#16, 4#16, 5#16, 6#16]
  motor := #v[1000#16, 1000#16, 1000#16, 1000#16]
  rc := #v[1500#16, 1500#16, 1500#16, 1500#16, 1500#16, 1500#16, 1500#16, 1500#16]
  angle := #v[0xFFF6#16, 20#16]
  heading := 90#16
  altitude := 0x00000100#32
  vario := 0xFFFF#16
  baro := 0x00018BCD#32
  sonar := 150#32

/-- The reference ACC_SCALE: truncating division by 8. -/
def truncDiv8 (v : Word16) : Word16 := BitVec.ofInt 16 (v.toInt.tdiv 8)

/-- IDLE in an unarmed invocation, with one byte offered. -/
def offering (b : Byte) : State := { State.reset with started := true, inputs := [.rx b bench] }

/-- A given parser state with one byte offered. -/
def offeringIn (p : ParserState) (b : Byte) : State := { offering b with pstate := p }

/-- HEADER_CMD with all of `FRAME(cmd, p)` received but its checksum byte, which is offered as `c`. -/
def complete (cmd : Byte) (p : List Byte) (c : Byte) : State := { (offering c).loadedWith cmd p with env := bench }

/-- One field of the next state. -/
def nextField {α : Type} (f : State → α) (o : Host.Outcome State Fault Refusal) : Option α :=
  match o with
  | .next s => some (f s)
  | .fault _ => none
  | .refused _ => none

/-- The fault of a step. -/
def faultOf (o : Host.Outcome State Fault Refusal) : Option Fault :=
  match o with
  | .next _ => none
  | .fault r => some r
  | .refused _ => none

/-- The error of a decoding. -/
def errorOf {α : Type} (e : Except DecodeError α) : Option DecodeError :=
  match e with
  | .ok _ => none
  | .error e => some e

/-- The bytes of 8 times `DC 05` (1500). -/
def rcBytes : List Byte :=
  [0xDC#8, 0x05#8, 0xDC#8, 0x05#8, 0xDC#8, 0x05#8, 0xDC#8, 0x05#8,
    0xDC#8, 0x05#8, 0xDC#8, 0x05#8, 0xDC#8, 0x05#8, 0xDC#8, 0x05#8]

/-! ## WellFormed: every check refuses an ill-formed term (R61, R67, R70) -/

theorem test_wf_accepts_status : (Instr.status [0x09#8, 0x09#8]).wf = true := by decide
theorem test_wf_accepts_unknown : (Instr.unknown 0x01#8 []).wf = true := by decide
theorem test_wf_refuses_unknown_named_id : (Instr.unknown 0x65#8 []).wf = false := by decide

/-- No CAPACITY is above 255, so a payload of 256 bytes never fits. -/
theorem long_payload_does_not_fit : payloadFits (List.replicate 256 0#8) = false := by
  have := Machine.capacity_bounds
  simp only [payloadFits, List.length_replicate, decide_eq_false_iff_not]
  omega

theorem test_wf_refuses_long_status : (Instr.status (List.replicate 256 0#8)).wf = false := long_payload_does_not_fit
theorem test_wf_refuses_long_rawImu : (Instr.rawImu (List.replicate 256 0#8)).wf = false := long_payload_does_not_fit
theorem test_wf_refuses_long_motor : (Instr.motor (List.replicate 256 0#8)).wf = false := long_payload_does_not_fit
theorem test_wf_refuses_long_rc : (Instr.rc (List.replicate 256 0#8)).wf = false := long_payload_does_not_fit
theorem test_wf_refuses_long_attitude : (Instr.attitude (List.replicate 256 0#8)).wf = false := long_payload_does_not_fit
theorem test_wf_refuses_long_altitude : (Instr.altitude (List.replicate 256 0#8)).wf = false := long_payload_does_not_fit
theorem test_wf_refuses_long_px4flow : (Instr.px4flow (List.replicate 256 0#8)).wf = false := long_payload_does_not_fit
theorem test_wf_refuses_long_mb1242 : (Instr.mb1242 (List.replicate 256 0#8)).wf = false := long_payload_does_not_fit
theorem test_wf_refuses_long_setRawRc : (Instr.setRawRc (List.replicate 256 0#8)).wf = false := long_payload_does_not_fit
theorem test_wf_refuses_long_setMotor : (Instr.setMotor (List.replicate 256 0#8)).wf = false := long_payload_does_not_fit
theorem test_wf_refuses_long_reboot : (Instr.reboot (List.replicate 256 0#8)).wf = false := long_payload_does_not_fit
theorem test_wf_refuses_long_buildInfo : (Instr.buildInfo (List.replicate 256 0#8)).wf = false := long_payload_does_not_fit
theorem test_wf_refuses_long_unknown : (Instr.unknown 0x01#8 (List.replicate 256 0#8)).wf = false := by
  simp only [Instr.wf, long_payload_does_not_fit, Bool.and_false]

/-! ## Decoding: one word of the spec for every constructor (95_test_vectors.md section 2.3) -/

theorem test_decode_status :
    (decode [0x24#8, 0x4D#8, 0x3C#8, 0x00#8, 0x65#8, 0x65#8]).toOption = some (.status []) := by decide
theorem test_decode_status_payload :
    (decode [0x24#8, 0x4D#8, 0x3C#8, 0x02#8, 0x65#8, 0x09#8, 0x09#8, 0x67#8]).toOption =
      some (.status [0x09#8, 0x09#8]) := by decide
theorem test_decode_rawImu :
    (decode [0x24#8, 0x4D#8, 0x3C#8, 0x00#8, 0x66#8, 0x66#8]).toOption = some (.rawImu []) := by decide
theorem test_decode_motor :
    (decode [0x24#8, 0x4D#8, 0x3C#8, 0x00#8, 0x68#8, 0x68#8]).toOption = some (.motor []) := by decide
theorem test_decode_rc :
    (decode [0x24#8, 0x4D#8, 0x3C#8, 0x00#8, 0x69#8, 0x69#8]).toOption = some (.rc []) := by decide
theorem test_decode_attitude :
    (decode [0x24#8, 0x4D#8, 0x3C#8, 0x00#8, 0x6C#8, 0x6C#8]).toOption = some (.attitude []) := by decide
theorem test_decode_altitude :
    (decode [0x24#8, 0x4D#8, 0x3C#8, 0x06#8, 0x6D#8, 0x00#8, 0x01#8, 0x00#8, 0x00#8, 0xFF#8, 0xFF#8, 0x6A#8]).toOption =
      some (.altitude [0x00#8, 0x01#8, 0x00#8, 0x00#8, 0xFF#8, 0xFF#8]) := by decide
theorem test_decode_px4flow :
    (decode [0x24#8, 0x4D#8, 0x3C#8, 0x00#8, 0x7D#8, 0x7D#8]).toOption = some (.px4flow []) := by decide
theorem test_decode_mb1242 :
    (decode [0x24#8, 0x4D#8, 0x3C#8, 0x00#8, 0x7E#8, 0x7E#8]).toOption = some (.mb1242 []) := by decide
theorem test_decode_setRawRc :
    (decode ([0x24#8, 0x4D#8, 0x3C#8, 0x10#8, 0xC8#8] ++ rcBytes ++ [0xD8#8])).toOption = some (.setRawRc rcBytes) := by
  decide
theorem test_decode_setMotor :
    (decode [0x24#8, 0x4D#8, 0x3C#8, 0x08#8, 0xD6#8, 0x24#8, 0x4D#8, 0x3C#8, 0x00#8, 0x65#8, 0x65#8, 0x24#8, 0x00#8,
      0xAF#8]).toOption =
      some (.setMotor [0x24#8, 0x4D#8, 0x3C#8, 0x00#8, 0x65#8, 0x65#8, 0x24#8, 0x00#8]) := by decide
theorem test_decode_reboot :
    (decode [0x24#8, 0x4D#8, 0x3C#8, 0x00#8, 0x44#8, 0x44#8]).toOption = some (.reboot []) := by decide
theorem test_decode_buildInfo :
    (decode [0x24#8, 0x4D#8, 0x3C#8, 0x00#8, 0x45#8, 0x45#8]).toOption = some (.buildInfo []) := by decide
theorem test_decode_unknown :
    (decode [0x24#8, 0x4D#8, 0x3C#8, 0x03#8, 0xFF#8, 0x01#8, 0x02#8, 0x03#8, 0xFC#8]).toOption =
      some (.unknown 0xFF#8 [0x01#8, 0x02#8, 0x03#8]) := by decide
theorem test_decode_start : (decode [0x24#8]).toOption = some .start := by decide
theorem test_decode_noop : (decode [0x23#8]).toOption = some .noop := by decide

/-- REBOOT_CHAR is a parameter: at the reference value 0x52 the byte is BOOT (L1.4). -/
theorem test_decode_boot : decodeIdle 0x52#8 0x52#8 = some .boot := by decide

/-- The legal values of REBOOT_CHAR leave out 0x23 and 0x24 only (R7): on both sides of the gap, and the ends. -/
theorem test_reboot_chars :
    (Config.rebootCharAt 0 = 0x00#8 ∧ Config.rebootCharAt 0x22 = 0x22#8) ∧
      (Config.rebootCharAt 0x23 = 0x25#8 ∧ Config.rebootCharAt 253 = 0xFF#8) := by decide

theorem test_decode_rejects_empty : errorOf (decode []) = some .empty := by decide
theorem test_decode_rejects_stray : (decodeIdle 0x52#8 0x00#8) = none := by decide
theorem test_decode_rejects_not_start :
    errorOf (decode [0x4D#8, 0x24#8, 0x3C#8, 0x00#8, 0x65#8, 0x65#8]) = some .notStartMarker := by decide
theorem test_decode_rejects_letter :
    errorOf (decode [0x24#8, 0x24#8, 0x4D#8, 0x3C#8, 0x00#8, 0x65#8, 0x65#8]) = some .badLetter := by decide
theorem test_decode_rejects_reply :
    errorOf (decode [0x24#8, 0x4D#8, 0x3E#8, 0x00#8, 0x65#8, 0x65#8]) = some .badDirection := by decide
theorem test_decode_rejects_oversized :
    errorOf (decodeFrame 64 [0x24#8, 0x4D#8, 0x3C#8, 0x41#8]) = some .oversized := by decide
theorem test_decode_rejects_truncated :
    errorOf (decode [0x24#8, 0x4D#8, 0x3C#8, 0x02#8, 0x65#8, 0x09#8]) = some .truncated := by decide
theorem test_decode_rejects_checksum :
    errorOf (decode [0x24#8, 0x4D#8, 0x3C#8, 0x00#8, 0x65#8, 0x64#8]) = some .badChecksum := by decide
theorem test_decode_rejects_trailing :
    errorOf (decode [0x24#8, 0x4D#8, 0x3C#8, 0x00#8, 0x65#8, 0x65#8, 0x00#8]) = some .trailing := by decide

theorem test_table_word_status : decodeTableWord 8 0x65 = some (.status []) := by decide
theorem test_table_word_start : decodeTableWord 8 0x24 = some .start := by decide

/-! ## Serializer and accessors (95_test_vectors.md section 2.1) -/

theorem test_writeLong_S5 : (writeLong 0x12345678#32 State.reset).trace = txs [0x78#8, 0x56#8, 0x34#8, 0x12#8] := by decide
theorem test_writeLong_S6_chk : (writeLong 0xFFFFFFFE#32 State.reset).chk = 0x01#8 := by decide
theorem test_headReply_S10 :
    (headReply true 0x0B#8 { State.reset with cmd := 0x65#8, chk := 0x99#8 }).chk = 0x6E#8 := by decide
theorem test_read16_S14 : (read16 { State.reset with buf := [(0, 0xDC#8), (1, 0x05#8)] }).1 = 1500#16 := by decide
theorem test_read32_S16 :
    (read32 { State.reset with buf := [(0, 0x78#8), (1, 0x56#8), (2, 0x34#8), (3, 0x12#8)] }).1 = 0x12345678#32 := by
  decide

/-! ## Dispatch: one step, at the frame's checksum byte (section 2.3) -/

theorem test_status_D1 :
    nextField State.trace (step (complete 0x65#8 [] 0x65#8)) =
      some (txs [0x24#8, 0x4D#8, 0x3E#8, 0x0B#8, 0x65#8, 0xB8#8, 0x0B#8, 0#8, 0#8, 0#8, 0#8, 0#8, 0#8, 0#8, 0#8, 0#8,
        0xDD#8]) := by decide
theorem test_rawImu_D2 :
    (rawImuReply truncDiv8 (complete 0x66#8 [] 0x66#8)).trace =
      txs [0x24#8, 0x4D#8, 0x3E#8, 0x12#8, 0x66#8, 0x0A#8, 0x00#8, 0xFE#8, 0xFF#8, 0x00#8, 0x02#8, 0x01#8, 0x00#8,
        0x02#8, 0x00#8, 0x03#8, 0x00#8, 0x04#8, 0x00#8, 0x05#8, 0x00#8, 0x06#8, 0x00#8, 0x7A#8] := by decide
theorem test_rawImu_D18_scaling :
    (imuValues truncDiv8 #v[0xFFFF#16, 0xFFF7#16, 0x8000#16, 1, 2, 3, 4, 5, 6]).flatMap le16 =
      [0x00#8, 0x00#8, 0xFF#8, 0xFF#8, 0x00#8, 0xF0#8, 0x01#8, 0x00#8, 0x02#8, 0x00#8, 0x03#8, 0x00#8, 0x04#8, 0x00#8,
        0x05#8, 0x00#8, 0x06#8, 0x00#8] := by decide
theorem test_motor_D3 :
    nextField State.trace (step (complete 0x68#8 [] 0x68#8)) =
      some (txs [0x24#8, 0x4D#8, 0x3E#8, 0x08#8, 0x68#8, 0xE8#8, 0x03#8, 0xE8#8, 0x03#8, 0xE8#8, 0x03#8, 0xE8#8, 0x03#8,
        0x60#8]) := by decide
theorem test_rc_D4 :
    nextField State.trace (step (complete 0x69#8 [] 0x69#8)) =
      some (txs ([0x24#8, 0x4D#8, 0x3E#8, 0x10#8, 0x69#8] ++ rcBytes ++ [0x79#8])) := by decide
theorem test_attitude_D5 :
    nextField State.trace (step (complete 0x6C#8 [] 0x6C#8)) =
      some (txs [0x24#8, 0x4D#8, 0x3E#8, 0x06#8, 0x6C#8, 0xF6#8, 0xFF#8, 0x14#8, 0x00#8, 0x5A#8, 0x00#8, 0x2D#8]) := by
  decide
theorem test_altitude_D6 :
    nextField State.trace (step (complete 0x6D#8 [] 0x6D#8)) =
      some (txs [0x24#8, 0x4D#8, 0x3E#8, 0x06#8, 0x6D#8, 0x00#8, 0x01#8, 0x00#8, 0x00#8, 0xFF#8, 0xFF#8, 0x6A#8]) := by
  decide
theorem test_px4flow_D7_D8 : px4flowOk .unregistered = false ∧ px4flowOk .okEmpty = true := by decide
theorem test_px4flow_clears_chk : nextField State.chk (step (complete 0x7D#8 [] 0x7D#8)) = some 0x00#8 := by decide
theorem test_mb1242_D9 :
    nextField State.trace (step (complete 0x7E#8 [] 0x7E#8)) =
      some (txs [0x24#8, 0x4D#8, 0x3E#8, 0x08#8, 0x7E#8, 0xCD#8, 0x8B#8, 0x01#8, 0x00#8, 0x96#8, 0x00#8, 0x00#8, 0x00#8,
        0xA7#8]) := by decide
theorem test_buildInfo_D10 :
    (buildInfoReply #v[0x4E#8, 0x6F#8, 0x76#8, 0x20#8, 0x31#8, 0x31#8, 0x20#8, 0x32#8, 0x30#8, 0x32#8, 0x36#8]
        (complete 0x45#8 [] 0x45#8)).trace =
      txs [0x24#8, 0x4D#8, 0x3E#8, 0x13#8, 0x45#8, 0x4E#8, 0x6F#8, 0x76#8, 0x20#8, 0x31#8, 0x31#8, 0x20#8, 0x32#8, 0x30#8,
        0x32#8, 0x36#8, 0#8, 0#8, 0#8, 0#8, 0#8, 0#8, 0#8, 0#8, 0x07#8] := by decide
theorem test_setRawRc_D11 :
    nextField State.trace (step (complete 0xC8#8 rcBytes 0xD8#8)) =
      some (.ctlWrite #v[1500, 1500, 1500, 1500, 1500, 1500, 1500, 1500] ::
        txs [0x24#8, 0x4D#8, 0x3E#8, 0x00#8, 0xC8#8, 0xC8#8]) := by decide

/-- D.19: after a 2-byte frame since reset, 14 of the 16 bytes are free draws. -/
theorem test_setRawRc_D19_draws : nextField State.draws (step (complete 0xC8#8 [0xD0#8, 0x07#8] 0x1D#8)) = some 14 := by
  decide
theorem test_setMotor_D12 :
    nextField State.trace
        (step (complete 0xD6#8 [0x00#8, 0x00#8, 0xFF#8, 0xFF#8, 0xD2#8, 0x04#8, 0xD0#8, 0x07#8] 0xDF#8)) =
      some ([.motorSet 0 0, .motorSet 1 0xFFFF#16, .motorSet 2 1234#16, .motorSet 3 2000#16] ++
        txs [0x24#8, 0x4D#8, 0x3E#8, 0x00#8, 0xD6#8, 0xD6#8]) := by decide
theorem test_reboot_D13 :
    nextField State.trace (step (complete 0x44#8 [] 0x44#8)) =
      some (txs [0x24#8, 0x4D#8, 0x3E#8, 0x00#8, 0x44#8, 0x44#8]) := by decide
theorem test_reboot_D13_pending : nextField State.pendReboot (step (complete 0x44#8 [] 0x44#8)) = some true := by decide
theorem test_unknown_D16 :
    nextField State.trace (step (complete 0xFF#8 [0x01#8, 0x02#8, 0x03#8] 0xFC#8)) =
      some (txs [0x24#8, 0x4D#8, 0x21#8, 0x00#8, 0xFF#8, 0xFF#8]) := by decide

/-! ## The parser and the driver (sections 2.2 and 2.4) -/

theorem test_start_P1 : nextField State.pstate (step (offering 0x24#8)) = some .headerStart := by decide
theorem test_noop_P3 : nextField State.pstate (step (offering 0x23#8)) = some .idle := by decide
theorem test_boot_P4 :
    nextField State.trace (parseIdle 0x52#8 0x52#8 (offering 0x52#8)) = some [.sysResetReq .bootloader] := by decide
theorem test_boot_P2_armed :
    nextField State.halted (parseIdle 0x52#8 0x52#8 { offering 0x52#8 with armed := true }) = some none := by decide
theorem test_letter_P6 : nextField State.pstate (step (offeringIn .headerStart 0x24#8)) = some .idle := by decide
theorem test_direction_P7 : nextField State.pstate (step (offeringIn .headerM 0x3E#8)) = some .idle := by decide
theorem test_length_P8 : (parseLength 64 0x41#8 (offeringIn .headerArrow 0x41#8)).pstate = .idle := by decide
theorem test_length_P9 : (parseLength 64 0x40#8 (offeringIn .headerArrow 0x40#8)).dlen = 64#8 := by decide
theorem test_command_P11 :
    nextField State.chk (step { offeringIn .headerSize 0xC8#8 with chk := 0x10#8 }) = some 0xD8#8 := by decide
theorem test_payload_P12 :
    nextField State.buf (step { offeringIn .headerCmd 0xDC#8 with chk := 0xD8#8, dlen := 2 }) = some [(0, 0xDC#8)] := by
  decide
theorem test_checksum_P14 : nextField State.pstate (step (complete 0x65#8 [] 0x64#8)) = some .idle := by decide
theorem test_rx_P16 : faultOf (step { State.reset with inputs := [.rx 0x24#8 bench] }) = some .notStarted := by decide
theorem test_invoke_V1 : nextField State.armed (step { State.reset with inputs := [.invoke true] }) = some true := by decide
theorem test_invoke_V2 :
    nextField State.trace (step { State.reset with inputs := [.invoke false], pendReboot := true }) =
      some [.sysResetReq .normal] := by decide
theorem test_halted_V3 :
    faultOf (step { State.reset with inputs := [.invoke false], halted := some .normal }) = some .halted := by decide
theorem test_no_event : faultOf (step State.reset) = some .noEvent := by decide
theorem test_index_past_length :
    faultOf (step { offeringIn .headerCmd 0#8 with widx := 2, dlen := 1 }) = some .indexPastLength := by decide
theorem test_no_such_index :
    faultOf (storePayload 64 0#8 { offeringIn .headerCmd 0#8 with widx := 64, dlen := 65 }) = some .noSuchIndex := by
  decide

/-- The printed codes of the parser states (R21) and of the errors (R170). -/
theorem test_codes :
    [ParserState.idle, .headerStart, .headerM, .headerArrow, .headerSize, .headerCmd].map ParserState.code =
        [0, 1, 2, 3, 4, 5] ∧
      [DropCode.desync, .oversize, .checksum].map DropCode.number = [1, 2, 3] := by decide

/-! ## The table's words run as the first instruction after reset -/

theorem test_fetch_word_status :
    nextField State.cmd (step (State.reset.withFetchWord 8 0x65)) = some 0x65#8 := by decide
theorem test_fetch_word_start :
    nextField State.pstate (step (State.reset.withFetchWord 8 0x24)) = some .headerStart := by decide

/-! ## Witnesses: the hypotheses of each obligation can be met

An obligation with no hypothesis (the results of the instructions, `SerializerWritesLittleEndian`, `CommandMapIsClosed`,
`SpecWordsDecode`, `InvariantHoldsAtReset`) has none here.
-/

/-- A frame under way: two bytes declared, one received. -/
def midFrame : State :=
  { offering 0x05#8 with
    pstate := .headerCmd, cmd := 0xD6#8, dlen := 2, widx := 1, chk := 0x08#8, buf := [(0, 0xDC#8)] }

theorem midFrame_inv : midFrame.Inv := by
  have := Machine.capacity_bounds
  constructor
  · decide
  · intro c hc
    simp only [midFrame, List.mem_cons, List.not_mem_nil, or_false] at hc
    subst hc
    simp only
    omega
  · decide
  · show 2 ≤ Config.capacity
    omega
  · intro h
    cases h
  · intro _ i hi
    have : i < 1 := hi
    obtain rfl : i = 0 := by omega
    rfl
  · intro _
    decide
  · intro h
    cases h
  · intro h
    cases h
  · intro h
    cases h

/-- A complete frame: only the checksum byte is missing. -/
theorem complete_inv : (complete 0x65#8 [] 0x65#8).Inv := by
  constructor
  · decide
  · intro c hc
    cases hc
  · decide
  · exact Nat.zero_le _
  · intro h
    cases h
  · intro _ i hi
    exact absurd hi (Nat.not_lt_zero i)
  · intro _
    decide
  · intro h
    cases h
  · intro h
    cases h
  · intro h
    cases h

theorem reset_inv : State.reset.Inv := by
  constructor <;> simp [State.reset, Memory.wf]

/-- Any byte offered to a started block that is not halted is received. -/
theorem offeringIn_receives (p : ParserState) (b : Byte) : (offeringIn p b).Receives b bench [] := ⟨rfl, rfl, rfl⟩

theorem complete_receives (cmd : Byte) (p : List Byte) (c : Byte) : (complete cmd p c).Receives c bench [] :=
  ⟨rfl, rfl, rfl⟩

theorem complete_completes (cmd : Byte) (p : List Byte) :
    (complete cmd p (frameChecksum cmd p)).CompletesFrame (frameChecksum cmd p) := ⟨rfl, rfl, rfl⟩

theorem witness_ResetLeavesSpecValues :
    (State.reset = State.reset ∨ State.reset = hostReset midFrame) ∧
      (hostReset midFrame = State.reset ∨ hostReset midFrame = hostReset midFrame) := ⟨.inl rfl, .inr rfl⟩

/-- Of `StepKeepsInvariant`, `OnlyRebootSetsPending` and the other rules about any step: one that stores a byte. -/
theorem witness_StepKeepsInvariant : ∃ t, midFrame.Inv ∧ step midFrame = .next t := ⟨_, midFrame_inv, rfl⟩
theorem witness_OnlyRebootSetsPending : ∃ t, step (complete 0x44#8 [] 0x44#8) = .next t := ⟨_, rfl⟩
theorem witness_OnlyPayloadStoreWritesBuffer : ∃ t, step midFrame = .next t := ⟨_, rfl⟩
theorem witness_OnlyDispatchOutputs : ∃ t, step (complete 0x65#8 [] 0x65#8) = .next t := ⟨_, rfl⟩

theorem witness_RunsFromResetMeetInvariant :
    ∃ t, Host.Core.run core 2 { State.reset with inputs := [.invoke false, .rx 0x24#8 bench] } = .next t := ⟨_, rfl⟩
theorem witness_NoOverrunUnderInvariant : midFrame.Inv := midFrame_inv

/-- The longest payload a frame can carry, and the shortest. -/
theorem witness_DecodeOfEncode :
    (Instr.setRawRc (List.replicate Config.capacity 0#8)).wf = true ∧ (Instr.reboot []).wf = true := by
  refine ⟨?_, rfl⟩
  simp [Instr.wf, payloadFits]
theorem witness_EncodeOfDecode : ∃ i, decode [0x24#8, 0x4D#8, 0x3C#8, 0x00#8, 0x65#8, 0x65#8] = .ok i := ⟨_, rfl⟩

/-- A reply's first three bytes, offered to a block in IDLE. -/
theorem witness_RepliesAreNotCommands :
    let s : State := { State.reset with
      started := true, inputs := [.rx 0x24#8 bench, .rx 0x4D#8 bench, .rx 0x21#8 bench] }
    s.halted = none ∧ s.started = true ∧ s.pstate = .idle ∧
      s.inputs = .rx 0x24#8 bench :: .rx 0x4D#8 bench :: .rx (if false then 0x3E#8 else 0x21#8) bench :: [] :=
  ⟨rfl, rfl, rfl, rfl⟩

/-- A frame the decoder accepts, and one it rejects for its checksum. -/
theorem witness_ParserAgreesWithFrameDecoder :
    (complete 0x65#8 [] 0x65#8).Inv ∧ (complete 0x65#8 [] 0x65#8).Receives 0x65#8 bench [] ∧
      (complete 0x65#8 [] 0x65#8).pstate = .headerCmd ∧
      (complete 0x65#8 [] 0x65#8).widx = (complete 0x65#8 [] 0x65#8).dlen := ⟨complete_inv, ⟨rfl, rfl, rfl⟩, rfl, rfl⟩
theorem witness_ParserAgreesWithFrameDecoder_mismatch :
    (complete 0x65#8 [] 0x64#8).Inv ∧ (complete 0x65#8 [] 0x64#8).Receives 0x64#8 bench [] ∧
      (complete 0x65#8 [] 0x64#8).pstate = .headerCmd ∧
      (complete 0x65#8 [] 0x64#8).widx = (complete 0x65#8 [] 0x64#8).dlen := by
  obtain ⟨h1, h2, h3, h4, h5, h6, h7, h8, h9, h10⟩ := complete_inv
  exact ⟨⟨h1, h2, h3, h4, h5, h6, h7, h8, h9, h10⟩, ⟨rfl, rfl, rfl⟩, rfl, rfl⟩

theorem witness_StepRunsDecodedInstruction_idle :
    (offeringIn .idle 0x24#8).Receives 0x24#8 bench [] ∧ (offeringIn .idle 0x24#8).pstate = .idle ∧
      decode [0x24#8] = .ok .start := ⟨offeringIn_receives _ _, rfl, rfl⟩
theorem witness_StepRunsDecodedInstruction_frame :
    (complete 0x65#8 [] 0x65#8).Receives 0x65#8 bench [] ∧ (complete 0x65#8 [] 0x65#8).CompletesFrame 0x65#8 :=
  ⟨complete_receives _ _ _, ⟨rfl, rfl, by decide⟩⟩

/-- A frame with one payload byte, split over two invocations. -/
def splitFrame : List Event :=
  [.rx 0x24#8 bench, .rx 0x4D#8 bench, .invoke true, .rx 0x3C#8 bench, .rx 0x01#8 bench, .rx 0x01#8 bench,
    .rx 0x07#8 bench]

theorem witness_FrameReachesDispatchOnce :
    let s : State := { State.reset with
      started := true, inputs := splitFrame ++ .rx (frameChecksum 0x01#8 [0x07#8]) bench :: [] }
    s.halted = none ∧ s.started = true ∧ s.pstate = .idle ∧
      (s.pendReboot = true → ∀ a, .invoke a ∉ splitFrame) ∧
      [0x07#8].length ≤ Config.capacity ∧
      rxBytes splitFrame = [0x24#8, 0x4D#8, 0x3C#8, BitVec.ofNat 8 [0x07#8].length, 0x01#8] ++ [0x07#8] ∧
      s.inputs = splitFrame ++ .rx (frameChecksum 0x01#8 [0x07#8]) bench :: [] := by
  have := Machine.capacity_bounds
  refine ⟨rfl, rfl, rfl, fun h => by (cases h), ?_, rfl, rfl⟩
  simp only [List.length_cons, List.length_nil]
  omega
theorem witness_BadChecksumFrameIsDropped :
    let s : State := { State.reset with started := true, inputs := splitFrame ++ .rx 0x00#8 bench :: [] }
    s.halted = none ∧ s.started = true ∧ s.pstate = .idle ∧
      (s.pendReboot = true → ∀ a, .invoke a ∉ splitFrame) ∧
      [0x07#8].length ≤ Config.capacity ∧
      rxBytes splitFrame = [0x24#8, 0x4D#8, 0x3C#8, BitVec.ofNat 8 [0x07#8].length, 0x01#8] ++ [0x07#8] ∧
      s.inputs = splitFrame ++ .rx 0x00#8 bench :: [] ∧ 0x00#8 ≠ frameChecksum 0x01#8 [0x07#8] := by
  have := Machine.capacity_bounds
  refine ⟨rfl, rfl, rfl, fun h => by (cases h), ?_, rfl, rfl, by decide⟩
  simp only [List.length_cons, List.length_nil]
  omega

/-- The other way to meet the premise on Invokes: a pending reboot, and no Invoke among the events. -/
theorem witness_FrameReachesDispatchOnce_pending :
    let s : State := { State.reset with
      started := true, pendReboot := true,
      inputs := [.rx 0x24#8 bench, .rx 0x4D#8 bench, .rx 0x3C#8 bench, .rx 0x00#8 bench, .rx 0x65#8 bench] ++
        .rx (frameChecksum 0x65#8 []) bench :: [] }
    (s.pendReboot = true → ∀ a, .invoke a ∉
      [Event.rx 0x24#8 bench, .rx 0x4D#8 bench, .rx 0x3C#8 bench, .rx 0x00#8 bench, .rx 0x65#8 bench]) ∧
      rxBytes [Event.rx 0x24#8 bench, .rx 0x4D#8 bench, .rx 0x3C#8 bench, .rx 0x00#8 bench, .rx 0x65#8 bench] =
        [0x24#8, 0x4D#8, 0x3C#8, BitVec.ofNat 8 ([] : List Byte).length, 0x65#8] ++ [] :=
  ⟨fun _ a h => by simp at h, rfl⟩

theorem witness_ReplyFraming :
    (0#8 : Byte) = BitVec.ofNat 8 ([] : List Byte).length ∧
      ∀ t : State, id t = { t with trace := t.trace ++ txs [], chk := t.chk ^^^ xorAll [] } := ⟨rfl, emits_id⟩

/-- The cursor at its start and at the last place where the accessor fits. -/
theorem witness_AccessorsReadAtCursor :
    (State.reset.rcur.toNat + 2 ≤ 256 ∧ ({ State.reset with rcur := 254 } : State).rcur.toNat + 2 ≤ 256) ∧
      (State.reset.rcur.toNat + 4 ≤ 256 ∧ ({ State.reset with rcur := 252 } : State).rcur.toNat + 4 ≤ 256) := by decide

theorem witness_StartOpensFrame :
    (offeringIn .idle 0x24#8).Receives 0x24#8 bench [] ∧ (offeringIn .idle 0x24#8).pstate = .idle :=
  ⟨offeringIn_receives _ _, rfl⟩
theorem witness_NoopChangesNothing :
    (offeringIn .idle 0x23#8).Receives 0x23#8 bench [] ∧ (offeringIn .idle 0x23#8).pstate = .idle ∧
      (offeringIn .idle 0x23#8).armed = false := ⟨offeringIn_receives _ _, rfl, rfl⟩
theorem witness_BootRequestsBootloader :
    (offeringIn .idle Config.rebootChar).Receives Config.rebootChar bench [] ∧
      (offeringIn .idle Config.rebootChar).pstate = .idle ∧ (offeringIn .idle Config.rebootChar).armed = false :=
  ⟨offeringIn_receives _ _, rfl, rfl⟩

theorem witness_IdleIgnoresOtherBytes_armed :
    let s : State := { offeringIn .idle 0x23#8 with armed := true }
    s.Receives 0x23#8 bench [] ∧ s.pstate = .idle ∧ 0x23#8 ≠ 0x24#8 ∧
      (s.armed = true ∨ (0x23#8 ≠ 0x23#8 ∧ 0x23#8 ≠ Config.rebootChar)) :=
  ⟨⟨rfl, rfl, rfl⟩, rfl, by decide, .inl rfl⟩
theorem witness_IdleIgnoresOtherBytes_unarmed :
    ∃ b : Byte, (offeringIn .idle b).Receives b bench [] ∧ (offeringIn .idle b).pstate = .idle ∧ b ≠ 0x24#8 ∧
      ((offeringIn .idle b).armed = true ∨ (b ≠ 0x23#8 ∧ b ≠ Config.rebootChar)) := by
  by_cases h : Config.rebootChar = 0x00#8
  · exact ⟨0xFF#8, offeringIn_receives _ _, rfl, by decide, .inr ⟨by decide, by rw [h]; decide⟩⟩
  · exact ⟨0x00#8, offeringIn_receives _ _, rfl, by decide, .inr ⟨by decide, fun e => h e.symm⟩⟩
theorem witness_HeaderStartTakesLetter :
    (offeringIn .headerStart 0x4D#8).Receives 0x4D#8 bench [] ∧ (offeringIn .headerStart 0x4D#8).pstate = .headerStart :=
  ⟨offeringIn_receives _ _, rfl⟩
theorem witness_HeaderMTakesDirection :
    (offeringIn .headerM 0x3C#8).Receives 0x3C#8 bench [] ∧ (offeringIn .headerM 0x3C#8).pstate = .headerM :=
  ⟨offeringIn_receives _ _, rfl⟩
theorem witness_HeaderArrowTakesLength :
    (offeringIn .headerArrow 0xFF#8).Receives 0xFF#8 bench [] ∧ (offeringIn .headerArrow 0xFF#8).pstate = .headerArrow :=
  ⟨offeringIn_receives _ _, rfl⟩
theorem witness_HeaderSizeTakesCommand :
    (offeringIn .headerSize 0x65#8).Receives 0x65#8 bench [] ∧ (offeringIn .headerSize 0x65#8).pstate = .headerSize :=
  ⟨offeringIn_receives _ _, rfl⟩
theorem witness_HeaderCmdStoresPayload :
    midFrame.Receives 0x05#8 bench [] ∧ midFrame.pstate = .headerCmd ∧ midFrame.widx < midFrame.dlen ∧
      midFrame.dlen.toNat ≤ Config.capacity := ⟨⟨rfl, rfl, rfl⟩, rfl, by decide, midFrame_inv.dlenLe⟩
theorem witness_ChecksumMismatchDrops :
    (complete 0x65#8 [] 0x64#8).Receives 0x64#8 bench [] ∧ (complete 0x65#8 [] 0x64#8).pstate = .headerCmd ∧
      (complete 0x65#8 [] 0x64#8).widx = (complete 0x65#8 [] 0x64#8).dlen ∧
      0x64#8 ≠ (complete 0x65#8 [] 0x64#8).chk := ⟨complete_receives _ _ _, rfl, rfl, by decide⟩
theorem witness_ParserTableIsTotal : midFrame.Inv ∧ midFrame.Receives 0x05#8 bench [] :=
  ⟨midFrame_inv, ⟨rfl, rfl, rfl⟩⟩
/-- The row that halts. -/
theorem witness_ParserTableIsTotal_halted :
    let s : State := { State.reset with started := true, inputs := [.rx Config.rebootChar bench] }
    s.Inv ∧ s.Receives Config.rebootChar bench [] ∧ s.pstate = .idle ∧ s.armed = false := by
  refine ⟨?_, ⟨rfl, rfl, rfl⟩, rfl, rfl⟩
  constructor <;> simp [State.reset, Memory.wf]

theorem witness_InvokeTakesRebootOrLatches :
    let s : State := { State.reset with inputs := [.invoke true], pendReboot := true }
    s.halted = none ∧ s.inputs = .invoke true :: [] := ⟨rfl, rfl⟩
theorem witness_HaltedHasNoStep :
    ({ State.reset with halted := some .bootloader } : State).halted = some .bootloader := rfl
theorem witness_NoRxBeforeInvoke :
    let s : State := { State.reset with inputs := [.rx 0x24#8 bench] }
    s.halted = none ∧ s.started = false ∧ s.inputs = .rx 0x24#8 bench :: [] := ⟨rfl, rfl, rfl⟩

theorem witness_RxIgnoresPendingReboot : (complete 0x65#8 [] 0x65#8).Receives 0x65#8 bench [] := complete_receives _ _ _
theorem witness_ArmedMattersOnlyInIdle : midFrame.Receives 0x05#8 bench [] ∧ midFrame.pstate ≠ .idle :=
  ⟨⟨rfl, rfl, rfl⟩, by decide⟩
theorem witness_OnlyTwoResetPaths_normal :
    ∃ t, step { State.reset with inputs := [.invoke false], pendReboot := true } = .next t ∧
      t.halted = some .normal := ⟨_, rfl, rfl⟩
theorem witness_OnlyTwoResetPaths_bootloader :
    ∃ t, step (offering Config.rebootChar) = .next t ∧ t.halted = some .bootloader := by
  refine ⟨sysReset .bootloader ((offering Config.rebootChar).taking bench []), ?_, rfl⟩
  rw [step_of_receives ⟨rfl, rfl, rfl⟩]
  exact parse_of_parseStep (.boot rfl rfl rfl)

theorem witness_EveryHandlerRepliesOnce : isFrame (.px4flow []) = true ∧ isFrame (.unknown 0x01#8 []) = true := by decide
theorem witness_DispatchWritesOnly :
    ∃ t, isFrame (.setMotor []) = true ∧ exec (.setMotor []) midFrame = .next t := ⟨_, rfl, rfl⟩

/-- A handler that reads 16 bytes, all of them written, and one that reads none. -/
theorem witness_DispatchIsRepeatable :
    (∃ t u, isFrame (.setRawRc []) = true ∧
      (∀ k, k < bytesRead (.setRawRc []) → ((complete 0xC8#8 rcBytes 0xD8#8).buf.read k).isSome) ∧
      exec (.setRawRc []) (complete 0xC8#8 rcBytes 0xD8#8) = .next t ∧ exec (.setRawRc []) t = .next u) ∧
    ∃ t u, isFrame (.status []) = true ∧
      (∀ k, k < bytesRead (.status []) → ((complete 0x65#8 [] 0x65#8).buf.read k).isSome) ∧
      exec (.status []) (complete 0x65#8 [] 0x65#8) = .next t ∧ exec (.status []) t = .next u :=
  ⟨⟨_, _, rfl, by decide, rfl, rfl⟩, ⟨_, _, rfl, by decide, rfl, rfl⟩⟩
theorem witness_ReplyRoundTrip :
    ∃ t, isFrame (.mb1242 []) = true ∧ exec (.mb1242 []) midFrame = .next t := ⟨_, rfl, rfl⟩

/-- Two states in HEADER_START that differ in the accumulator, the indices, the id and the cursor. -/
theorem witness_ResidueIsUnobservable :
    (offeringIn .headerStart 0x4D#8).ObsEq
      { offeringIn .headerStart 0x4D#8 with chk := 0xAA#8, widx := 3, dlen := 4, cmd := 0x65#8, rcur := 16 } where
  pstate := rfl
  buf := rfl
  pendReboot := rfl
  started := rfl
  armed := fun _ => rfl
  halted := rfl
  inputs := rfl
  draws := rfl
  trace := rfl
  length := fun h => by rcases h with h | h <;> cases h
  cmd := fun h => by cases h
theorem witness_RebootReplyPrecedesReset :
    let s : State := { complete 0x44#8 [] 0x44#8 with inputs := [.rx 0x44#8 bench, .invoke false] }
    s.Receives 0x44#8 bench (.invoke false :: []) ∧ s.CompletesFrame 0x44#8 ∧ s.cmd = 0x44#8 :=
  ⟨⟨rfl, rfl, rfl⟩, ⟨rfl, rfl, by decide⟩, rfl⟩
theorem witness_BytesAfterBootloaderStay :
    let s : State := { offering Config.rebootChar with inputs := [.rx Config.rebootChar bench, .rx 0x24#8 bench] }
    s.Receives Config.rebootChar bench [.rx 0x24#8 bench] ∧ s.pstate = .idle ∧ s.armed = false :=
  ⟨⟨rfl, rfl, rfl⟩, rfl, rfl⟩

/-- One payload byte and the checksum byte are missing. -/
theorem witness_FrameEndsWithinItsLength :
    let s : State := { midFrame with inputs := [.rx 0x05#8 bench, .rx 0x00#8 bench] }
    s.Inv ∧ s.halted = none ∧ s.started = true ∧ s.pstate = .headerCmd ∧
      [((0x05#8 : Byte), bench), (0x00#8, bench)].length = s.dlen.toNat - s.widx.toNat + 1 ∧
      s.inputs = [((0x05#8 : Byte), bench), (0x00#8, bench)].map (fun b => Event.rx b.1 b.2) ++ [] := by
  obtain ⟨h1, h2, h3, h4, h5, h6, h7, h8, h9, h10⟩ := midFrame_inv
  exact ⟨⟨h1, h2, h3, h4, h5, h6, h7, h8, h9, h10⟩, rfl, rfl, rfl, by decide, rfl⟩

end Sys2Proof.Tests
end

/-! PROOFS. The invariant of every run, and what any step may do to the buffer and the pending-reboot flag
(spec/10_state.md R22 to R32).
-/

namespace Sys2Proof.Machine

/-! ## Events that have no step -/

/-- Halted, no event has a step (R31, R164). -/
theorem step_of_halted {s : State} {m : ResetMode} (hh : s.halted = some m) : step s = .fault .halted := by
  simp [step, driverStep, hh]

/-- With no event offered, the run has ended (R165). -/
theorem step_of_noEvent {s : State} (hh : s.halted = none) (hi : s.inputs = []) : step s = .fault .noEvent := by
  simp [step, driverStep, hh, hi]

/-- Before the first Invoke a byte has no step (R30, R161). -/
theorem step_of_notStarted {s : State} {b : Byte} {env : EnvSample} {rest : List Event} (hh : s.halted = none)
    (hs : s.started = false) (hi : s.inputs = .rx b env :: rest) : step s = .fault .notStarted := by
  simp [step, driverStep, hh, hi, handle, receive, hs]

/-- Settles O44: the driver meets the byte before the parser does. -/
theorem noRxBeforeInvoke : Obligations.NoRxBeforeInvoke := fun _ _ _ _ hh hs hi => step_of_notStarted hh hs hi

/-! ## Where the invariant comes from -/

/-- Settles O2: nothing is stored, the parser is in IDLE and nothing is halted. -/
theorem invariantHoldsAtReset : Obligations.InvariantHoldsAtReset := by
  constructor <;> simp [State.reset, Memory.wf]

/-- The events offered and the sample are no part of the invariant. -/
theorem State.Inv.taking {s : State} (h : s.Inv) (env : EnvSample) (rest : List Event) : (s.taking env rest).Inv :=
  { h with }

theorem State.Inv.consume {s : State} (h : s.Inv) (rest : List Event) : (consume rest s).Inv := h.taking s.env rest

/-- While the block runs, a change that leaves the buffer and its two indices alone and ends before the length has been
taken keeps the invariant: its clauses on HEADER_SIZE and HEADER_CMD do not apply. -/
theorem State.Inv.of_same_buffer {s t : State} (h : s.Inv) (hbuf : t.buf = s.buf) (hwidx : t.widx = s.widx)
    (hdlen : t.dlen = s.dlen) (hsize : t.pstate ≠ .headerSize) (hcmd : t.pstate ≠ .headerCmd)
    (hstarted : t.started = true) (hhalted : t.halted = none) : t.Inv where
  bufCanonical := hbuf ▸ h.bufCanonical
  bufInRange := hbuf ▸ h.bufInRange
  widxLe := by rw [hwidx, hdlen]; exact h.widxLe
  dlenLe := hdlen ▸ h.dlenLe
  sizeChk := fun hp => absurd hp hsize
  collected := fun hp => absurd hp hcmd
  cmdChk := fun hp => absurd hp hcmd
  idleBeforeStart := by simp [hstarted]
  normalReset := by simp [hhalted]
  bootReset := by simp [hhalted]

/-! ## Each transition keeps it -/

section
variable {s : State} {b : Byte}

/-- R104: the reset request is made in IDLE while unarmed, and the block stays started. -/
theorem State.Inv.boot (h : s.Inv) (hstarted : s.started = true) (hp : s.pstate = .idle) (ha : s.armed = false) :
    (sysReset .bootloader s).Inv :=
  { h with
    idleBeforeStart := by simp [hstarted]
    normalReset := by simp
    bootReset := fun _ => ⟨hp, ha⟩ }

/-- R111: an accepted length is at most CAPACITY, and no byte has been collected yet. -/
theorem State.Inv.length (h : s.Inv) (hstarted : s.started = true) (hhalted : s.halted = none)
    (hb : b.toNat ≤ Config.capacity) : State.Inv { s with dlen := b, widx := 0, chk := b, pstate := .headerSize } :=
  { h with
    widxLe := BitVec.le_def.2 (Nat.zero_le _)
    dlenLe := hb
    sizeChk := fun _ => ⟨rfl, rfl⟩
    collected := by simp
    cmdChk := by simp
    idleBeforeStart := by simp [hstarted]
    bootReset := by simp [hhalted] }

/-- R112: the accumulator held the length, and takes the id. -/
theorem State.Inv.command (h : s.Inv) (hstarted : s.started = true) (hhalted : s.halted = none)
    (hp : s.pstate = .headerSize) : State.Inv { s with chk := s.chk ^^^ b, cmd := b, pstate := .headerCmd } := by
  obtain ⟨hwidx, hchk⟩ := h.sizeChk hp
  exact { h with
    sizeChk := by simp
    collected := by simp [hwidx]
    cmdChk := by simp [hwidx, hchk, Memory.firstBytes]
    idleBeforeStart := by simp [hstarted]
    bootReset := by simp [hhalted] }

/-- A byte written right after the first `n` extends them by that byte. -/
theorem Memory.firstBytes_write (m : Memory) (n : Nat) (b : Byte) :
    (m.write n b).firstBytes (n + 1) = m.firstBytes n ++ [b] := by
  have hbelow : (m.write n b).firstBytes n = m.firstBytes n :=
    Memory.firstBytes_congr _ _ _ fun i hi => by simp [Memory.read_write, Nat.ne_of_lt hi]
  simp [Memory.firstBytes_succ, hbelow, Memory.read_write]

/-- The write index does not wrap below the declared length. -/
theorem toNat_succ_of_lt {i n : Byte} (h : i < n) : (i + 1).toNat = i.toNat + 1 := by
  bv_omega

/-- R113: the byte is stored where the collected ones end, and XORed into the accumulator. -/
theorem State.Inv.payload (h : s.Inv) (hp : s.pstate = .headerCmd) (hlt : s.widx < s.dlen)
    (hcap : s.widx.toNat < Config.capacity) :
    State.Inv { s with chk := s.chk ^^^ b, buf := s.buf.write s.widx.toNat b, widx := s.widx + 1 } := by
  have hsucc := toNat_succ_of_lt hlt
  exact { h with
    bufCanonical := Memory.wf_write _ _ _ h.bufCanonical
    bufInRange := Memory.write_below _ _ _ _ h.bufInRange hcap
    widxLe := BitVec.le_def.2 (hsucc ▸ BitVec.lt_def.1 hlt)
    sizeChk := by simp [hp]
    collected := fun _ i hi => by
      simp only [hsucc] at hi
      rw [Memory.read_write]
      split
      · rfl
      · exact h.collected hp i (by omega)
    cmdChk := fun _ => by
      simp only [hsucc, Memory.firstBytes_write, h.cmdChk hp, xorAll_append]
      simp [BitVec.xor_assoc] }

end

/-- Every transition of the parser keeps the invariant. -/
theorem ParseStep.keeps_inv {b : Byte} {s t : State} (h : ParseStep b s t) (hi : s.Inv) (hstarted : s.started = true)
    (hhalted : s.halted = none) : t.Inv := by
  cases h with
  | boot hp _ ha => exact hi.boot hstarted hp ha
  | length _ hb => exact hi.length hstarted hhalted hb
  | command hp => exact hi.command hstarted hhalted hp
  | payload hp hlt hcap => exact hi.payload hp hlt hcap
  | ignored hp _ _ => exact hi.of_same_buffer rfl rfl rfl (by simp [hp]) (by simp [hp]) hstarted hhalted
  | _ => exact hi.of_same_buffer rfl rfl rfl (by simp) (by simp) hstarted hhalted

/-- An Invoke keeps the invariant (R160): a pending reboot implies that the block has started. -/
theorem State.Inv.invoke {s : State} (h : s.Inv) (a : Bool) (hhalted : s.halted = none) : (invoke a s).Inv := by
  cases hpend : s.pendReboot with
  | true =>
    have hstarted : s.started = true := by
      by_contra hs
      obtain ⟨-, hnot, -⟩ := h.idleBeforeStart (by simpa using hs)
      simp [hpend] at hnot
    rw [Machine.invoke, if_pos hpend]
    exact { h with
      idleBeforeStart := by simp [hstarted]
      normalReset := fun _ => hpend
      bootReset := by simp }
  | false =>
    rw [Machine.invoke, if_neg (by simp [hpend])]
    exact { h with
      idleBeforeStart := by simp
      normalReset := by simp [hhalted]
      bootReset := by simp [hhalted] }

/-- Settles O3: an Invoke and each transition of the parser keep the invariant. -/
theorem stepKeepsInvariant : Obligations.StepKeepsInvariant := by
  intro s t hi hstep
  obtain ⟨a, rest, hh, -, rfl⟩ | ⟨b, env, rest, hr, hparse⟩ := step_next_cases hstep
  · exact (hi.consume rest).invoke a hh
  · exact hparse.keeps_inv (hi.taking env rest) hr.started hr.running

/-! ## Runs -/

/-- A run keeps the invariant, by induction on its number of steps. -/
theorem run_keeps_inv (k : Nat) {s t : State} (hi : s.Inv) (h : Host.Core.run core k s = .next t) : t.Inv := by
  induction k generalizing s with
  | zero =>
    cases h
    exact hi
  | succ k ih =>
    cases hstep : step s with
    | next u => exact ih (stepKeepsInvariant s u hi hstep) (run_succ k hstep ▸ h)
    | fault r => simp [Host.Core.run, show core.step s = .fault r from hstep] at h
    | refused r => simp [Host.Core.run, show core.step s = .refused r from hstep] at h

/-- Settles O4: the invariant holds at reset, whatever is offered there, and every run keeps it. -/
theorem runsFromResetMeetInvariant : Obligations.RunsFromResetMeetInvariant := fun events k _ h =>
  run_keeps_inv k (invariantHoldsAtReset.consume events) h

/-! ## No store outside the buffer -/

/-- Under the invariant the parser has a rule for every byte: in HEADER_CMD `widx` is at most `dlen`, so a store is in
range (R32, R48). -/
theorem State.Inv.parse_answers {s : State} (h : s.Inv) (b : Byte) : ∃ t, parse b s = .next t := by
  cases hp : s.pstate with
  | idle => exact ⟨_, (parse_idle b hp).trans (parseIdle_eq b s)⟩
  | headerStart => exact ⟨_, parse_headerStart b hp⟩
  | headerM => exact ⟨_, parse_headerM b hp⟩
  | headerArrow => exact ⟨_, parse_headerArrow b hp⟩
  | headerSize => exact ⟨_, parse_headerSize b hp⟩
  | headerCmd =>
    by_cases heq : s.widx = s.dlen
    · by_cases hb : b = s.chk
      · obtain ⟨r, hr⟩ := handlerResult_isSome _ s (isFrame_ofCommand s.cmd (framePayload s))
        exact ⟨_, parse_of_parseStep (.dispatched r ⟨hp, heq, hb⟩ hr)⟩
      · exact ⟨_, parse_of_parseStep (.mismatch hp heq hb)⟩
    · have hlt : s.widx < s.dlen := BitVec.lt_of_le_ne h.widxLe heq
      have hcap : s.widx.toNat < Config.capacity := Nat.lt_of_lt_of_le (BitVec.lt_def.1 hlt) h.dlenLe
      exact ⟨_, parse_of_parseStep (.payload hp hlt hcap)⟩

/-- Under the invariant a step stops only where the spec says that an event has no step (R161, R164, R165). -/
theorem State.Inv.step_cases {s : State} (h : s.Inv) :
    (∃ t, step s = .next t) ∨ step s = .fault .halted ∨ step s = .fault .noEvent ∨ step s = .fault .notStarted := by
  cases hh : s.halted with
  | some m => exact .inr (.inl (step_of_halted hh))
  | none =>
    cases hi : s.inputs with
    | nil => exact .inr (.inr (.inl (step_of_noEvent hh hi)))
    | cons e rest =>
      cases e with
      | invoke a => exact .inl ⟨_, step_of_invoke hh hi⟩
      | rx b env =>
        cases hs : s.started with
        | false => exact .inr (.inr (.inr (step_of_notStarted hh hs hi)))
        | true =>
          rw [step_of_receives ⟨hh, hs, hi⟩]
          exact .inl ((h.taking env rest).parse_answers b)

/-- Settles O5: a step that stops does so at an event that has no step. -/
theorem noOverrunUnderInvariant : Obligations.NoOverrunUnderInvariant := by
  intro s hi
  obtain ⟨t, h⟩ | h | h | h := hi.step_cases <;> simp [h]

/-! ## The pending-reboot flag -/

theorem taking_completesFrame (s : State) (b : Byte) (env : EnvSample) (rest : List Event) :
    (s.taking env rest).CompletesFrame b ↔ s.CompletesFrame b :=
  ⟨fun ⟨hp, hw, hb⟩ => ⟨hp, hw, hb⟩, fun ⟨hp, hw, hb⟩ => ⟨hp, hw, hb⟩⟩

/-- An Invoke leaves the flag as it is, even one that takes the reboot (R28). -/
@[simp] theorem invoke_pendReboot (a : Bool) (s : State) : (invoke a s).pendReboot = s.pendReboot := by
  rw [invoke]
  split <;> rfl

@[simp] theorem HandlerResult.apply_pendReboot (r : HandlerResult) (s : State) :
    (r.apply s).pendReboot = r.pending := rfl

/-- Of the command ids only 0x44 is REBOOT (R67). -/
theorem ofCommand_eq_reboot (c : Byte) (p : List Byte) : (∃ q, Instr.ofCommand c p = .reboot q) ↔ c = 0x44#8 := by
  apply ofCommand_cases (P := fun c i => (∃ q, i = .reboot q) ↔ c = 0x44#8)
  case unknown =>
    intro c hc
    have hne : c ≠ 0x44#8 := fun h => hc (h ▸ by decide)
    simp [hne]
  all_goals simp

/-- The handlers that leave the flag set: REBOOT, and every one when it was set already (R28, R141). -/
theorem handlerResult_pending {i : Instr} {s : State} {r : HandlerResult} (h : handlerResult i s = some r) :
    r.pending = true ↔ s.pendReboot = true ∨ ∃ q, i = .reboot q := by
  cases i <;> cases h <;> simp [answerResult]

/-- The only transition of a completed frame is its dispatch. -/
theorem ParseStep.of_completesFrame {b : Byte} {s t : State} (h : ParseStep b s t) (hc : s.CompletesFrame b) :
    ∃ r, handlerResult (Instr.ofCommand s.cmd (framePayload s)) s = some r ∧ t = goto .idle (r.apply s) := by
  obtain ⟨r, hr⟩ := handlerResult_isSome _ s (isFrame_ofCommand s.cmd (framePayload s))
  have hnext := (parse_of_parseStep h).symm.trans (parse_of_parseStep (.dispatched r hc hr))
  exact ⟨r, hr, Host.Outcome.next.inj hnext⟩

theorem ParseStep.pendReboot_of_not_completesFrame {b : Byte} {s t : State} (h : ParseStep b s t)
    (hc : ¬ s.CompletesFrame b) : t.pendReboot = s.pendReboot := by
  cases h with
  | dispatched r hcomplete _ => exact absurd hcomplete hc
  | _ => rfl

theorem ParseStep.pendReboot_iff {b : Byte} {s t : State} (h : ParseStep b s t) :
    t.pendReboot = true ↔ s.pendReboot = true ∨ (s.CompletesFrame b ∧ s.cmd = 0x44#8) := by
  by_cases hc : s.CompletesFrame b
  · obtain ⟨r, hr, rfl⟩ := h.of_completesFrame hc
    rw [goto_pendReboot, HandlerResult.apply_pendReboot, handlerResult_pending hr, ofCommand_eq_reboot]
    simp [hc]
  · simp [h.pendReboot_of_not_completesFrame hc, hc]

/-- What is received is the event offered. -/
theorem State.Receives.unique {s : State} {b b' : Byte} {env env' : EnvSample} {rest rest' : List Event}
    (h : s.Receives b env rest) (h' : s.Receives b' env' rest') : b = b' := by
  have hoffered := h.offered.symm.trans h'.offered
  simp only [List.cons.injEq, Event.rx.injEq] at hoffered
  exact hoffered.1.1

/-- Settles O48: an Invoke leaves the flag alone, and of the parser's transitions only a REBOOT dispatch sets it. -/
theorem onlyRebootSetsPending : Obligations.OnlyRebootSetsPending := by
  intro s t hstep
  obtain ⟨a, rest, -, hinvoke, rfl⟩ | ⟨b, env, rest, hr, hparse⟩ := step_next_cases hstep
  · have hno : ∀ b env rest', ¬ s.Receives b env rest' := fun b env rest' hr => by
      simpa [hinvoke] using hr.offered
    simp [hno]
  · rw [hparse.pendReboot_iff, taking_completesFrame]
    refine or_congr_right ⟨fun ⟨hc, hcmd⟩ => ⟨b, env, rest, hr, hc, hcmd⟩, ?_⟩
    rintro ⟨b', env', rest', hr', hc, hcmd⟩
    obtain rfl := hr.unique hr'
    exact ⟨hc, hcmd⟩

/-! ## The buffer -/

@[simp] theorem invoke_buf (a : Bool) (s : State) : (invoke a s).buf = s.buf := by
  rw [invoke]
  split <;> rfl

/-- Only the payload store (R113) writes the buffer; every handler leaves it alone (R145). -/
theorem ParseStep.buf_cases {b : Byte} {s t : State} (h : ParseStep b s t) :
    t.buf = s.buf ∨ (s.pstate = .headerCmd ∧ s.widx < s.dlen ∧ t.buf = s.buf.write s.widx.toNat b) := by
  cases h with
  | payload hp hlt _ => exact .inr ⟨hp, hlt, rfl⟩
  | _ => exact .inl rfl

/-- Settles O49: an Invoke leaves the buffer alone, and of the parser's transitions only the payload store writes it. -/
theorem onlyPayloadStoreWritesBuffer : Obligations.OnlyPayloadStoreWritesBuffer := by
  intro s t hstep
  obtain ⟨a, rest, -, -, rfl⟩ | ⟨b, env, rest, hr, hparse⟩ := step_next_cases hstep
  · left
    simp
  · obtain hbuf | ⟨hp, hlt, hbuf⟩ := hparse.buf_cases
    · left
      simp [hbuf, State.taking]
    · refine .inr ⟨b, env, rest, hr, hp, hlt, fun j => ?_⟩
      rw [hbuf, Memory.read_write]
      rfl

end Sys2Proof.Machine

/-! PROOFS. The decoder and the encoder agree, and the parser agrees with the decoder (spec/30_encoding.md R61 to R71,
spec/41_parser.md R101 to R115).
-/

namespace Sys2Proof

/-! ## What the decoder does with a frame -/

/-- The bytes of a frame up to its trailing byte `c`: that byte alone decides whether a payload that fits is accepted
(R61, R62). -/
theorem decode_body (cmd c : Byte) (p : List Byte) (hp : p.length ≤ Config.capacity) :
    decode ([startMarker, protocolLetter, inboundArrow, BitVec.ofNat 8 p.length, cmd] ++ p ++ [c]) =
      if c = frameChecksum cmd p then .ok (Instr.ofCommand cmd p) else .error .badChecksum := by
  have hbody := decodeFrame_body Config.capacity cmd c p [] hp (hp.trans Machine.capacity_bounds.2)
  simp only [List.cons_append, List.nil_append] at hbody ⊢
  rw [decode_frame, hbody]
  by_cases hc : c = frameChecksum cmd p <;> simp [hc]

/-- A frame whose payload fits is decoded to the instruction its id selects (R67). -/
theorem decode_inboundFrame (cmd : Byte) (p : List Byte) (hp : p.length ≤ Config.capacity) :
    decode (inboundFrame cmd p) = .ok (Instr.ofCommand cmd p) :=
  (decode_body cmd _ p hp).trans (if_pos rfl)

/-- More than one byte is accepted only as a frame that nothing follows. -/
theorem decodeFrame_of_decode_ok {b c : Byte} {bs : List Byte} {i : Instr} (h : decode (b :: c :: bs) = .ok i) :
    decodeFrame Config.capacity (b :: c :: bs) = .ok (i, []) := by
  rw [decode_frame] at h
  split at h
  · cases h
    assumption
  · cases h
  · cases h

/-! ## What the decoder does with a single byte -/

theorem decode_start : decode [startMarker] = .ok .start := rfl

theorem decode_noop : decode [noopByte] = .ok .noop := rfl

/-- REBOOT_CHAR is read last, and it is neither of the other two bytes (R7). -/
theorem decode_boot : decode [Config.rebootChar] = .ok .boot := by
  simp [decode, decodeIdle, Machine.rebootChar_ne]

/-- The idle-byte table answers only what is encoded as that byte (R69). -/
theorem encode_of_decodeIdle {b : Byte} {i : Instr} (h : decodeIdle Config.rebootChar b = some i) :
    i.wf = true ∧ encode i = [b] := by
  unfold decodeIdle at h
  split at h
  case isTrue hstart =>
    cases h
    exact ⟨rfl, hstart ▸ rfl⟩
  split at h
  case isTrue hnoop =>
    cases h
    exact ⟨rfl, hnoop ▸ rfl⟩
  split at h
  case isTrue hboot =>
    cases h
    exact ⟨rfl, hboot ▸ rfl⟩
  case isFalse => cases h

theorem decodeIdle_of_decode_ok {b : Byte} {i : Instr} (h : decode [b] = .ok i) :
    decodeIdle Config.rebootChar b = some i := by
  cases hb : decodeIdle Config.rebootChar b with
  | some j => simpa [decode, hb] using h
  | none => simp [decode, hb] at h

/-! ## Decoding and encoding are inverse to each other -/

/-- Settles O6: a well-formed instruction is a frame that fits or one of the single bytes. -/
theorem decodeOfEncode : Obligations.DecodeOfEncode := by
  intro i hwf
  obtain ⟨cmd, p, hp, hi, hencode⟩ | rfl | rfl | rfl := wf_cases i hwf
  · rw [hencode, hi]
    exact decode_inboundFrame cmd p hp
  · exact decode_start
  · exact decode_noop
  · exact decode_boot

/-- Settles O7: a single byte is accepted by the idle-byte table, and anything longer as a whole frame. -/
theorem encodeOfDecode : Obligations.EncodeOfDecode := by
  intro bytes i h
  match bytes with
  | [] => cases h
  | [_] => exact encode_of_decodeIdle (decodeIdle_of_decode_ok h)
  | _ :: _ :: _ =>
    obtain ⟨cmd, p, hp, rfl, hbytes⟩ := decodeFrame_ok (decodeFrame_of_decode_ok h)
    obtain ⟨hwf, hencode⟩ := ofCommand_wf cmd p hp
    rw [hbytes, List.append_nil]
    exact ⟨hwf, hencode⟩

/-- Every block's CAPACITY is at least 19 (R6). -/
theorem payloadFits_of_length_le {p : List Byte} (hp : p.length ≤ 19) : payloadFits p = true :=
  decide_eq_true (hp.trans Machine.capacity_bounds.1)

/-- Bytes that spell the encoding of a well-formed instruction are decoded to it. -/
theorem decode_of_encode_eq {i : Instr} {bytes : List Byte} (hencode : encode i = bytes) (hwf : i.wf = true) :
    decode bytes = .ok i :=
  hencode ▸ decodeOfEncode i hwf

/-- Settles O8: each word is the encoding of the well-formed instruction it stands for. -/
theorem specWordsDecode : Obligations.SpecWordsDecode := by
  refine ⟨?status, ?setRawRc, ?setMotor, ?unknown, decode_start, decode_noop⟩
  case unknown =>
    exact decode_of_encode_eq (by decide) (by simp [Instr.wf, namedIds, payloadFits_of_length_le])
  all_goals exact decode_of_encode_eq (by decide) (payloadFits_of_length_le (by decide))

/-- Settles O9: the named ids select instructions of their own, every other id the default arm. -/
theorem commandMapIsClosed : Obligations.CommandMapIsClosed := by
  intro cmd p
  apply ofCommand_cases (P := fun c i => c ∉ namedIds ↔ i = .unknown c p)
  case unknown =>
    intro c hc
    exact iff_of_true hc rfl
  all_goals simp [namedIds]

/-! ## Replies -/

/-- A reply differs from a command at offset 2 (R63, R71). -/
theorem statusByte_ne_inboundArrow (ok : Bool) : statusByte ok ≠ inboundArrow := by
  cases ok <;> decide

/-- R70, R71: the direction byte is tested before the length, the id and the checksum. -/
theorem decodeFrame_badDirection (capacity : Nat) {b : Byte} (hb : b ≠ inboundArrow) (rest : List Byte) :
    decodeFrame capacity (startMarker :: protocolLetter :: b :: rest) = .error .badDirection := by
  simp [decodeFrame, decodeLetter, decodeDirection, hb]

namespace Machine

/-- A byte that has a step takes its transition (R161). -/
theorem State.Receives.step_eq {s t : State} {b : Byte} {env : EnvSample} {rest : List Event}
    (h : s.Receives b env rest) (hparse : ParseStep b (s.taking env rest) t) : step s = .next t :=
  (step_of_receives h).trans (parse_of_parseStep hparse)

/-- A run goes on from the state that the byte's transition leads to. -/
theorem State.Receives.run_eq {s t : State} {b : Byte} {env : EnvSample} {rest : List Event} (k : Nat)
    (h : s.Receives b env rest) (hparse : ParseStep b (s.taking env rest) t) :
    Host.Core.run core (k + 1) s = Host.Core.run core k t :=
  run_succ k (h.step_eq hparse)

/-- R101, R106, R109: from IDLE, the start marker, the protocol letter and a byte that is no `'<'` lead back to IDLE. -/
theorem run_badDirection {s : State} {b : Byte} {e₁ e₂ e₃ : EnvSample} {rest : List Event} (hh : s.halted = none)
    (hs : s.started = true) (hp : s.pstate = .idle) (hb : b ≠ inboundArrow)
    (hi : s.inputs = .rx startMarker e₁ :: .rx protocolLetter e₂ :: .rx b e₃ :: rest) :
    Host.Core.run core 3 s = .next (raiseDrop .desync (s.taking e₃ rest)) :=
  calc Host.Core.run core 3 s
    _ = Host.Core.run core 2 (goto .headerStart (s.taking e₁ (.rx protocolLetter e₂ :: .rx b e₃ :: rest))) :=
      State.Receives.run_eq 2 ⟨hh, hs, hi⟩ (.start hp rfl)
    _ = Host.Core.run core 1 (goto .headerM (s.taking e₂ (.rx b e₃ :: rest))) :=
      State.Receives.run_eq 1 ⟨hh, hs, rfl⟩ (.letter rfl rfl)
    _ = Host.Core.run core 0 (raiseDrop .desync (s.taking e₃ rest)) :=
      State.Receives.run_eq 0 ⟨hh, hs, rfl⟩ (.badDirection rfl hb)

/-- Settles O10: a reply's status byte is no `'<'`, which decoder and parser test at the same place. -/
theorem repliesAreNotCommands : Obligations.RepliesAreNotCommands := by
  refine ⟨fun capacity ok cmd p rest => decodeFrame_badDirection capacity (statusByte_ne_inboundArrow ok) _, ?_⟩
  intro s ok e₁ e₂ e₃ rest hh hs hp hi
  rw [run_badDirection hh hs hp (statusByte_ne_inboundArrow ok) hi]
  simp [raiseDrop, State.taking, ← hp]

/-! ## The parser and the one-shot decoder -/

/-- R114, R115: with the payload complete, the byte is the trailing checksum. -/
theorem parse_complete {s : State} (b : Byte) (hp : s.pstate = .headerCmd) (hw : s.widx = s.dlen) :
    parse b s = parseChecksum b s := by
  have hlt : ¬ s.widx < s.dlen := by simp [hw]
  rw [parse_headerCmd b hp, parseBody, if_neg hlt, if_pos hw]

/-- Under the invariant, a complete payload stands in the buffer at its declared length. -/
theorem State.Inv.length_framePayload {s : State} (h : s.Inv) (hp : s.pstate = .headerCmd) (hw : s.widx = s.dlen) :
    (framePayload s).length = s.dlen.toNat :=
  Memory.length_firstBytes _ _ (hw ▸ h.collected hp)

/-- R62: under the invariant the accumulator is then the frame's checksum. -/
theorem State.Inv.chk_eq_frameChecksum {s : State} (h : s.Inv) (hp : s.pstate = .headerCmd) (hw : s.widx = s.dlen) :
    s.chk = frameChecksum s.cmd (framePayload s) := by
  rw [frameChecksum, h.length_framePayload hp hw, h.cmdChk hp, hw, BitVec.ofNat_toNat, BitVec.setWidth_eq,
    framePayload]

/-- The decoder accepts the frame received so far exactly with the accumulator as its trailing byte. -/
theorem State.Inv.decode_receivedBytes {s : State} (h : s.Inv) (b : Byte) (hp : s.pstate = .headerCmd)
    (hw : s.widx = s.dlen) :
    decode (s.receivedBytes ++ [b]) =
      if b = s.chk then .ok (Instr.ofCommand s.cmd (framePayload s)) else .error .badChecksum := by
  have hlen := h.length_framePayload hp hw
  have hbody := decode_body s.cmd b (framePayload s) (hlen ▸ h.dlenLe)
  rw [hlen, BitVec.ofNat_toNat, BitVec.setWidth_eq, ← h.chk_eq_frameChecksum hp hw] at hbody
  rw [State.receivedBytes, hw]
  exact hbody

/-- Settles O11: both sides compare the trailing byte with the accumulator and look up the same id and payload. -/
theorem parserAgreesWithFrameDecoder : Obligations.ParserAgreesWithFrameDecoder := by
  intro s b env rest hinv hr hp hw
  have hstep : step s = parseChecksum b (s.taking env rest) := (step_of_receives hr).trans (parse_complete b hp hw)
  rw [hinv.decode_receivedBytes b hp hw, hstep]
  by_cases hb : b = s.chk
  · rw [if_pos hb]
    exact ⟨iff_of_true rfl hb, if_pos hb⟩
  · rw [if_neg hb]
    exact ⟨iff_of_false Bool.false_ne_true hb, rfl, if_neg hb⟩

end Machine

end Sys2Proof

/-! PROOFS. The serializer, the reply framing and the accessors, and the one reply of every frame
(spec/40_serializer.md R80 to R89; spec/42_dispatch.md R130).
-/

namespace Sys2Proof.Machine

/-! ## Serializer and accessors -/

/-- Settles O15: a byte is emitted and XORed by definition; the longer writes emit `le16 v`, `le32 v` and the buffer. -/
theorem serializerWritesLittleEndian : Obligations.SerializerWritesLittleEndian := fun s =>
  ⟨fun _ => rfl, fun v => writeShort_emits v s, fun v => writeLong_emits v s, fun p => writeBuffer_emits p s⟩

/-- Settles O16: a body that emits `bs` stands between the header and the trailer. -/
theorem replyFraming : Obligations.ReplyFraming := by
  intro s ok n
  refine ⟨headReply_eq ok n s, tailReply_eq s, fun bs body hn hbody => ?_⟩
  subst hn
  exact reply_eq ok hbody s

/-- Settles O17: the reads of the accessors are those after 0 bytes read. -/
theorem accessorsReadAtCursor : Obligations.AccessorsReadAtCursor := by
  intro s
  refine ⟨?_, fun h => ?_, fun h => ?_⟩
  · simpa [State.advanced] using read8_advanced s 0 s.rcur.isLt
  · simpa [State.advanced] using read16_advanced s 0 (by omega)
  · simpa [State.advanced] using read32_advanced s 0 (by omega)

/-! ## One reply for every frame -/

section
variable {i : Instr} {s : State} {r : HandlerResult}

/-- A handler's collaborator events are control and motor outputs, never bytes (R139, R140). -/
theorem handlerResult_before_ne_tx (h : handlerResult i s = some r) : ∀ e ∈ r.before, ∀ b, e ≠ .tx b := by
  cases i <;> cases h
  case setMotor => simp [motorCalls]
  all_goals simp [answerResult]

/-- The longest reply is BUILDINFO's (R65, R142). -/
theorem handlerResult_payload_length_le (h : handlerResult i s = some r) : r.payload.length ≤ 19 := by
  cases i <;> cases h
  all_goals simp [answerResult, le16, le32, imuValues, List.length_flatMap, Function.const_def]

/-- PX4FLOW's status is error only when it is unregistered (R137). -/
theorem px4flowOk_eq_false (m : Px4flowMode) : px4flowOk m = false ↔ m = .unregistered := by
  cases m <;> decide

/-- The status is error for UNKNOWN and for an unregistered PX4FLOW only (R137, R143). -/
theorem handlerResult_ok_eq_false (h : handlerResult i s = some r) :
    r.ok = false ↔ (∃ c p, i = .unknown c p) ∨ (∃ p, i = .px4flow p) ∧ Config.px4flowMode = .unregistered := by
  cases i <;> cases h
  case px4flow => simp [answerResult, px4flowOk_eq_false]
  all_goals simp [answerResult]

end

/-- Settles O51: a frame's handler result is one reply after its collaborator events. -/
theorem everyHandlerRepliesOnce : Obligations.EveryHandlerRepliesOnce := by
  intro i s hi
  obtain ⟨r, hr⟩ := handlerResult_isSome i s hi
  exact ⟨r.apply s, r.before, r.ok, r.payload, exec_frame i s r hr, rfl, handlerResult_before_ne_tx hr,
    handlerResult_payload_length_le hr, handlerResult_ok_eq_false hr⟩

end Sys2Proof.Machine

/-! PROOFS. The frame parser: its transitions as steps, its table, what it outputs, and a frame spread over invocations
(spec/41_parser.md R100 to R119).
-/

namespace Sys2Proof.Machine

/-! ## IDLE -/

/-- Settles O12: IDLE looks the byte up in the decoder's own table, and a matching checksum dispatches. -/
theorem stepRunsDecodedInstruction : Obligations.StepRunsDecodedInstruction := by
  intro s b env rest hr
  refine ⟨fun i hp hdecode => ?_, fun ⟨hp, hw, hb⟩ => ?_⟩
  · have hparse : parse b (s.taking env rest) = parseIdle Config.rebootChar b (s.taking env rest) := parse_idle b hp
    rw [step_of_receives hr, hparse, parseIdle, decodeIdle_of_decode_ok hdecode]
  · have hparse : parse b (s.taking env rest) = parseChecksum b (s.taking env rest) := parse_complete b hp hw
    rw [step_of_receives hr, hparse]
    exact if_pos hb

/-- Settles O31: the start marker comes before any test of the armed mode. -/
theorem startOpensFrame : Obligations.StartOpensFrame := fun _ =>
  ⟨rfl, fun _ _ hr hp => hr.step_eq (.start hp rfl)⟩

/-- Settles O34: what IDLE ignores, in either armed mode, is what is neither the start marker nor an unarmed
REBOOT_CHAR. -/
theorem idleIgnoresOtherBytes : Obligations.IdleIgnoresOtherBytes := by
  intro s b env rest hr hp hstart hother
  refine hr.step_eq (.ignored hp hstart fun hboot => ?_)
  exact hother.resolve_right fun ⟨_, hne⟩ => hne hboot

/-- Settles O32: the no-op byte is ignored, as REBOOT_CHAR is another byte (R7). -/
theorem noopChangesNothing : Obligations.NoopChangesNothing := fun _ =>
  ⟨rfl, fun _ _ hr hp _ =>
    hr.step_eq (.ignored hp (by decide) fun hboot => absurd hboot.symm rebootChar_ne.2)⟩

/-- Settles O33: the meaning tests the armed mode itself, and the parser reaches it in IDLE. -/
theorem bootRequestsBootloader : Obligations.BootRequestsBootloader := by
  intro s
  refine ⟨?_, fun env rest hr hp ha => hr.step_eq (.boot hp rfl ha)⟩
  cases ha : s.armed <;> simp [exec, execBoot, ha, sysReset, out]

/-! ## Header stages -/

/-- Settles O35: the two transitions of HEADER_START. -/
theorem headerStartTakesLetter : Obligations.HeaderStartTakesLetter := by
  intro s b env rest hr hp
  split
  · exact hr.step_eq (.letter hp ‹_›)
  · exact hr.step_eq (.badLetter hp ‹_›)

/-- Settles O36: the two transitions of HEADER_M. -/
theorem headerMTakesDirection : Obligations.HeaderMTakesDirection := by
  intro s b env rest hr hp
  split
  · exact hr.step_eq (.direction hp ‹_›)
  · exact hr.step_eq (.badDirection hp ‹_›)

/-- Settles O37: `b = CAPACITY` is an accepted length. -/
theorem headerArrowTakesLength : Obligations.HeaderArrowTakesLength := by
  intro s b env rest hr hp
  split
  · exact hr.step_eq (.oversized hp ‹_›)
  · exact hr.step_eq (.length hp (Nat.le_of_not_lt ‹_›))

/-- Settles O38: HEADER_SIZE has one transition, for any byte. -/
theorem headerSizeTakesCommand : Obligations.HeaderSizeTakesCommand := fun _ _ _ _ hr hp => hr.step_eq (.command hp)

/-! ## Payload and checksum -/

/-- Settles O39: the new buffer is the old one with one write, in range as `widx < dlen <= CAPACITY`. -/
theorem headerCmdStoresPayload : Obligations.HeaderCmdStoresPayload := by
  intro s b env rest hr hp hlt hcap
  have hindex : s.widx.toNat < Config.capacity := Nat.lt_of_lt_of_le (BitVec.lt_def.1 hlt) hcap
  exact ⟨s.buf.write s.widx.toNat b, hr.step_eq (.payload hp hlt hindex), fun j => Memory.read_write _ _ _ _⟩

/-- Settles O40: a complete frame's byte that is not the accumulator takes the mismatch transition. -/
theorem checksumMismatchDrops : Obligations.ChecksumMismatchDrops := fun _ _ _ _ hr hp hw hb =>
  hr.step_eq (.mismatch hp hw hb)

/-! ## The parser's table -/

section
variable {b : Byte} {s t : State}

/-- Every transition ends in the parser state of the last column of R116. -/
theorem ParseStep.pstate_eq (h : ParseStep b s t) : t.pstate = nextParserState s b := by
  cases h with
  | start hp hb => simp [nextParserState, hp, hb, startMarker]
  | boot hp hb _ => simpa [nextParserState, hp, hb, startMarker] using rebootChar_ne.1
  | ignored hp hb _ => simpa [nextParserState, hp, startMarker] using hb
  | letter hp hb => simp [nextParserState, hp, hb, protocolLetter]
  | badLetter hp hb => simpa [nextParserState, hp, protocolLetter] using hb
  | direction hp hb => simp [nextParserState, hp, hb, inboundArrow]
  | badDirection hp hb => simpa [nextParserState, hp, inboundArrow] using hb
  | oversized hp hb => simp [nextParserState, hp, hb]
  | length hp hb => simp [nextParserState, hp, Nat.not_lt.2 hb]
  | command hp => simp [nextParserState, hp]
  | payload hp hlt _ => simp [nextParserState, hp, hlt]
  | dispatched r hc _ => simp [nextParserState, hc.inCmd, hc.complete]
  | mismatch hp hw _ => simp [nextParserState, hp, hw]

/-- Of the transitions only R104 halts the block. -/
theorem ParseStep.halted_eq (h : ParseStep b s t) :
    t.halted =
      if s.pstate = .idle ∧ b = Config.rebootChar ∧ s.armed = false then some .bootloader else s.halted := by
  cases h with
  | boot hp hb ha => rw [if_pos ⟨hp, hb, ha⟩, sysReset_halted]
  | start hp hb =>
    rw [if_neg fun ⟨_, hboot, _⟩ => rebootChar_ne.1 (hboot.symm.trans hb), goto_halted]
  | ignored hp _ ha =>
    rw [if_neg fun ⟨_, hboot, hunarmed⟩ => Bool.false_ne_true (hunarmed.symm.trans (ha hboot))]
  | dispatched r hc _ => simp [hc.inCmd, HandlerResult.apply]
  | _ => simp [*]

/-- What `raise Drop(code)` appends is the diagnostic, if anything (R176). -/
theorem eq_dropDiag_of_mem_dropEvents {c : DropCode} {e : Output} (h : e ∈ dropEvents c) : e = .dropDiag c := by
  unfold dropEvents at h
  split at h
  · exact List.mem_singleton.1 h
  · cases h

/-- R100: every transition appends to the trace, and all but the dispatch append a diagnostic or a reset request at
most. -/
theorem ParseStep.trace_cases (h : ParseStep b s t) :
    ∃ es : List Output, t.trace = s.trace ++ es ∧
      (s.CompletesFrame b ∨ ∀ e ∈ es, (∃ c, e = .dropDiag c) ∨ ∃ m, e = .sysResetReq m) := by
  cases h with
  | dispatched r hc _ => exact ⟨_, List.append_assoc _ _ _, .inl hc⟩
  | boot => exact ⟨[.sysResetReq .bootloader], rfl, .inr (by simp)⟩
  | badLetter | badDirection | oversized | mismatch =>
    exact ⟨_, rfl, .inr fun e he => .inl ⟨_, eq_dropDiag_of_mem_dropEvents he⟩⟩
  | _ => exact ⟨[], by simp, .inr (by simp)⟩

end

/-- Settles O41: under the invariant the byte has a transition, and each ends where the table says. -/
theorem parserTableIsTotal : Obligations.ParserTableIsTotal := by
  intro s b env rest hinv hr
  obtain ⟨t, ht⟩ := (hinv.taking env rest).parse_answers b
  have hparse := parse_next ht
  refine ⟨t, hr.step_eq hparse, hparse.pstate_eq, ?_⟩
  rw [hparse.halted_eq, show (s.taking env rest).halted = none from hr.running]
  rfl

/-- An Invoke appends at most the reset request (R160). -/
theorem invoke_trace (a : Bool) (s : State) :
    (invoke a s).trace = s.trace ++ if s.pendReboot then [.sysResetReq .normal] else [] := by
  unfold invoke
  split <;> simp

/-- Settles O50: neither an Invoke nor a transition other than the dispatch appends anything else. -/
theorem onlyDispatchOutputs : Obligations.OnlyDispatchOutputs := by
  intro s t hstep
  obtain ⟨a, rest, -, -, rfl⟩ | ⟨b, env, rest, hr, hparse⟩ := step_next_cases hstep
  · refine ⟨_, invoke_trace a (consume rest s), ?_⟩
    rintro ⟨e, he, -, hreset⟩
    split at he
    · exact absurd (List.mem_singleton.1 he) (hreset _)
    · cases he
  · obtain ⟨es, htrace, hcases⟩ := hparse.trace_cases
    refine ⟨es, htrace, ?_⟩
    rintro ⟨e, he, hdiag, hreset⟩
    obtain hc | honly := hcases
    · exact ⟨b, env, rest, hr, (taking_completesFrame s b env rest).1 hc⟩
    · obtain ⟨c, hc⟩ | ⟨m, hm⟩ := honly e he
      · exact absurd hc (hdiag c)
      · exact absurd hm (hreset m)

/-! ## Bytes taken across invocations -/

/-- `s` with another armed mode, sample and events offered: the fields that Invokes and the environment set. -/
def State.under (s : State) (a : Bool) (env : EnvSample) (inputs : List Event) : State :=
  { s with armed := a, env := env, inputs := inputs }

/-- The byte leads from `s` to `t` whatever the armed mode, the sample and the events offered, and the block goes on as
it was. -/
structure TakesByte (b : Byte) (s t : State) : Prop where
  parseStep : ∀ a env inputs, ParseStep b (s.under a env inputs) (t.under a env inputs)
  halted : t.halted = s.halted
  started : t.started = s.started
  pendReboot : t.pendReboot = s.pendReboot

/-- The bytes lead from the first state to the second, each as `TakesByte` says. -/
inductive Takes : State → List Byte → State → Prop where
  | nil (s : State) : Takes s [] s
  | cons {b : Byte} {bs : List Byte} {s t u : State} : TakesByte b s t → Takes t bs u → Takes s (b :: bs) u

theorem Takes.append {s t u : State} {as bs : List Byte} (h : Takes s as t) (h' : Takes t bs u) :
    Takes s (as ++ bs) u := by
  induction h with
  | nil => exact h'
  | cons hb _ ih => exact .cons hb (ih h')

/-- A running block takes an Invoke with no reboot pending: only the armed mode changes (R160). -/
theorem step_under_invoke {s : State} (hh : s.halted = none) (hs : s.started = true) (hpend : s.pendReboot = false)
    (a a' : Bool) (env : EnvSample) (rest : List Event) :
    step (s.under a env (.invoke a' :: rest)) = .next (s.under a' env rest) := by
  have hstep : step (s.under a env (.invoke a' :: rest)) = .next (invoke a' (s.under a env rest)) :=
    step_of_invoke hh rfl
  rw [hstep]
  simp [invoke, State.under, latchArmed, hpend, hs]

/-- Bytes that are taken are taken however they are spread over invocations: the run over the events that deliver them
ends where the bytes lead, armed as the last Invoke says. -/
theorem Takes.run_events {k : Nat} {s u : State} {tail : List Event} (events : List Event)
    (h : Takes s (rxBytes events) u) (hh : s.halted = none) (hs : s.started = true)
    (hpend : s.pendReboot = true → ∀ a, .invoke a ∉ events) (a : Bool) (env : EnvSample) :
    ∃ env', Host.Core.run core (events.length + k) (s.under a env (events ++ tail)) =
      Host.Core.run core k (u.under (armedAfter a events) env' tail) := by
  induction events generalizing s a env with
  | nil =>
    cases h
    exact ⟨env, by simp [armedAfter]⟩
  | cons e events ih =>
    rw [List.length_cons, Nat.succ_add]
    cases e with
    | invoke a' =>
      have hnot : s.pendReboot = false := by
        by_contra hp
        exact hpend (by simpa using hp) a' List.mem_cons_self
      rw [List.cons_append, run_succ _ (step_under_invoke hh hs hnot a a' env _)]
      exact ih h hh hs (by simp [hnot]) a' env
    | rx b env' =>
      cases h with
      | cons hb hrest =>
        have hr : (s.under a env (.rx b env' :: (events ++ tail))).Receives b env' (events ++ tail) := ⟨hh, hs, rfl⟩
        rw [List.cons_append, hr.run_eq _ (hb.parseStep a env' _)]
        refine ih hrest (hb.halted.trans hh) (hb.started.trans hs) (fun hp a'' hmem => ?_) a env'
        exact hpend (hb.pendReboot ▸ hp) a'' (List.mem_cons_of_mem _ hmem)

/-! ## A frame's bytes are taken -/

/-- `s` when the header of a frame has just been taken (R101 to R112). -/
def State.afterHeader (s : State) (len cmd : Byte) : State :=
  { s with pstate := .headerCmd, dlen := len, widx := 0, cmd := cmd, chk := len ^^^ cmd }

/-- `s` when one payload byte has been taken in HEADER_CMD (R113). -/
def State.afterByte (s : State) (b : Byte) : State :=
  { s with chk := s.chk ^^^ b, buf := s.buf.write s.widx.toNat b, widx := s.widx + 1 }

/-- `s` when payload bytes have been taken in HEADER_CMD (R113). -/
def State.afterPayload (s : State) (p : List Byte) : State :=
  { s with
    chk := s.chk ^^^ xorAll p, buf := storeBytes s.buf s.widx.toNat p, widx := s.widx + BitVec.ofNat 8 p.length }

theorem State.afterPayload_cons {s : State} (b : Byte) (p : List Byte) (hlt : s.widx < s.dlen) :
    s.afterPayload (b :: p) = (s.afterByte b).afterPayload p := by
  have hwidx : s.widx + BitVec.ofNat 8 (p.length + 1) = s.widx + 1 + BitVec.ofNat 8 p.length := by
    rw [BitVec.ofNat_add]
    ac_rfl
  simp only [State.afterPayload, State.afterByte, storeBytes, List.length_cons, hwidx, toNat_succ_of_lt hlt,
    xorAll_cons, BitVec.xor_assoc]

/-- R101, R106, R108, R111, R112: the five header bytes, with a length that fits. -/
theorem takes_header {s : State} {len : Byte} (cmd : Byte) (hp : s.pstate = .idle)
    (hlen : len.toNat ≤ Config.capacity) :
    Takes s [0x24#8, 0x4D#8, 0x3C#8, len, cmd] (s.afterHeader len cmd) := by
  refine .cons (t := goto .headerStart s) ⟨fun _ _ _ => .start hp rfl, rfl, rfl, rfl⟩ ?_
  refine .cons (t := goto .headerM s) ⟨fun _ _ _ => .letter rfl rfl, rfl, rfl, rfl⟩ ?_
  refine .cons (t := goto .headerArrow s) ⟨fun _ _ _ => .direction rfl rfl, rfl, rfl, rfl⟩ ?_
  refine .cons (t := { s with dlen := len, widx := 0, chk := len, pstate := .headerSize })
    ⟨fun _ _ _ => .length rfl hlen, rfl, rfl, rfl⟩ ?_
  exact .cons (t := s.afterHeader len cmd) ⟨fun _ _ _ => .command rfl, rfl, rfl, rfl⟩ (.nil _)

/-- R113: payload bytes, up to the declared length. -/
theorem takes_payload {s : State} (p : List Byte) (hp : s.pstate = .headerCmd)
    (hlen : s.widx.toNat + p.length ≤ s.dlen.toNat) (hcap : s.dlen.toNat ≤ Config.capacity) :
    Takes s p (s.afterPayload p) := by
  induction p generalizing s with
  | nil =>
    have hend : s.afterPayload [] = s := by simp [State.afterPayload, storeBytes]
    rw [hend]
    exact .nil s
  | cons b p ih =>
    rw [List.length_cons] at hlen
    have hlt : s.widx < s.dlen := BitVec.lt_def.2 (by omega)
    have hcount : (s.afterByte b).widx.toNat = s.widx.toNat + 1 := toNat_succ_of_lt hlt
    rw [State.afterPayload_cons b p hlt]
    refine .cons (t := s.afterByte b) ⟨fun _ _ _ => .payload hp hlt ?_, rfl, rfl, rfl⟩ (ih hp ?_ hcap)
    · show s.widx.toNat < Config.capacity
      omega
    · show (s.afterByte b).widx.toNat + p.length ≤ s.dlen.toNat
      omega

/-- R62: header and payload leave the accumulator at the frame's checksum. -/
theorem afterPayload_afterHeader (s : State) (cmd : Byte) (p : List Byte) :
    (s.afterHeader (BitVec.ofNat 8 p.length) cmd).afterPayload p = s.loadedWith cmd p := by
  simp [State.afterPayload, State.afterHeader, State.loadedWith, frameChecksum]

/-- A length that fits is its byte's value (R6). -/
theorem toNat_ofNat_of_le_capacity {n : Nat} (h : n ≤ Config.capacity) : (BitVec.ofNat 8 n).toNat = n :=
  Nat.mod_eq_of_lt (Nat.lt_succ_of_le (h.trans capacity_bounds.2))

/-- Everything of a frame but its checksum byte is taken, and loads the payload. -/
theorem takes_frame {s : State} (cmd : Byte) {p : List Byte} (hp : s.pstate = .idle)
    (hfits : p.length ≤ Config.capacity) :
    Takes s ([0x24#8, 0x4D#8, 0x3C#8, BitVec.ofNat 8 p.length, cmd] ++ p) (s.loadedWith cmd p) := by
  have hlen := toNat_ofNat_of_le_capacity hfits
  rw [← afterPayload_afterHeader]
  refine (takes_header cmd hp (hlen.trans_le hfits)).append (takes_payload p rfl ?_ (hlen.trans_le hfits))
  simp [State.afterHeader, hlen]

/-- Stored bytes are read back after those that stood before them. -/
theorem firstBytes_storeBytes (m : Memory) (i : Nat) (p : List Byte) :
    (storeBytes m i p).firstBytes (i + p.length) = m.firstBytes i ++ p := by
  induction p generalizing m i with
  | nil => simp [storeBytes]
  | cons b p ih =>
    have h := ih (m.write i b) (i + 1)
    rw [Memory.firstBytes_write] at h
    simpa [storeBytes, Nat.add_assoc, Nat.add_comm 1] using h

/-- The payload that the dispatch of a loaded frame selects is the frame's. -/
theorem framePayload_loadedWith (s : State) (cmd : Byte) {p : List Byte} (hfits : p.length ≤ Config.capacity) :
    framePayload (s.loadedWith cmd p) = p := by
  have h := firstBytes_storeBytes s.buf 0 p
  simp only [framePayload, State.loadedWith, toNat_ofNat_of_le_capacity hfits]
  simpa [Memory.firstBytes] using h

/-- A run of one step is that step. -/
theorem run_one (s : State) : Host.Core.run core 1 s = step s := by
  have hstep : core.step s = step s := rfl
  simp only [Host.Core.run, hstep]
  cases step s <;> rfl

section
variable {s : State} {cmd : Byte} {p : List Byte} {events : List Event}

/-- The run over a frame's events and one byte more ends in the checksum test of that byte, at the loaded state. -/
theorem run_frame (hh : s.halted = none) (hs : s.started = true) (hp : s.pstate = .idle)
    (hpend : s.pendReboot = true → ∀ a, .invoke a ∉ events) (hfits : p.length ≤ Config.capacity)
    (hbytes : rxBytes events = [0x24#8, 0x4D#8, 0x3C#8, BitVec.ofNat 8 p.length, cmd] ++ p)
    (b : Byte) (env : EnvSample) (rest : List Event) (hi : s.inputs = events ++ .rx b env :: rest) :
    Host.Core.run core (events.length + 1) s =
      parseChecksum b ((s.loadedWith cmd p).under (armedAfter s.armed events) env rest) := by
  have htakes : Takes s (rxBytes events) (s.loadedWith cmd p) := hbytes ▸ takes_frame cmd hp hfits
  obtain ⟨env', hrun⟩ := htakes.run_events (k := 1) (tail := .rx b env :: rest) events hh hs hpend s.armed s.env
  rw [← hi] at hrun
  have hr : ((s.loadedWith cmd p).under (armedAfter s.armed events) env' (.rx b env :: rest)).Receives b env rest :=
    ⟨hh, hs, rfl⟩
  have hparse : parse b ((s.loadedWith cmd p).under (armedAfter s.armed events) env rest) =
      parseChecksum b ((s.loadedWith cmd p).under (armedAfter s.armed events) env rest) := parse_complete b rfl rfl
  exact ((hrun.trans (run_one _)).trans (step_of_receives hr)).trans hparse

end

/-- Settles O13: the checksum byte matches, and the payload dispatched is the one just stored. -/
theorem frameReachesDispatchOnce : Obligations.FrameReachesDispatchOnce := by
  intro s cmd p events env rest hh hs hp hpend hfits hbytes hi
  have hpayload : framePayload ((s.loadedWith cmd p).under (armedAfter s.armed events) env rest) = p :=
    framePayload_loadedWith s cmd hfits
  have hdispatch : dispatch ((s.loadedWith cmd p).under (armedAfter s.armed events) env rest) =
      thenState (exec (Instr.ofCommand cmd p) ((s.loadedWith cmd p).under (armedAfter s.armed events) env rest))
        (goto .idle) := by
    rw [dispatch, hpayload]
    rfl
  exact ((run_frame hh hs hp hpend hfits hbytes _ env rest hi).trans (if_pos rfl)).trans hdispatch

/-- Settles O14: the checksum byte does not match, which only returns the parser to IDLE. -/
theorem badChecksumFrameIsDropped : Obligations.BadChecksumFrameIsDropped := by
  intro s cmd p events b env rest hh hs hp hpend hfits hbytes hi hb
  exact (run_frame hh hs hp hpend hfits hbytes b env rest hi).trans (if_neg hb)

end Sys2Proof.Machine

/-! PROOFS. The dispatch: each instruction's completion, reply and frame, and what holds of every handler
(spec/42_dispatch.md R130 to R147).
-/

namespace Sys2Proof.Machine

/-! ## The handlers that only answer -/

/-- A dispatch whose handler only answers ends in its reply (R130, R145). -/
theorem exec_of_answer {i : Instr} {s : State} {ok : Bool} {bs : List Byte}
    (h : handlerResult i s = some (answerResult s ok bs)) : exec i s = .next (s.replied ok bs) :=
  answerResult_apply s ok bs ▸ exec_frame i s _ h

/-- A vector's values in wire order are those at its indices. -/
theorem toList_eq_ofFn {n : Nat} (v : Vector Word16 n) : v.toList = List.ofFn fun i : Fin n => v[i] :=
  List.ext_getElem (by simp) (by simp)

/-- Settles O18: STATUS only answers. -/
theorem statusReply : Obligations.StatusReply := fun _ _ => exec_of_answer rfl

/-- Settles O19: RAW_IMU only answers, and its nine values are written out one by one. -/
theorem rawImuReply_holds : Obligations.RawImuReply := fun _ _ => exec_of_answer rfl

/-- Settles O20: MOTOR only answers, with the vector's four values in order. -/
theorem motorReply : Obligations.MotorReply := fun _ s =>
  exec_of_answer (by rw [handlerResult, toList_eq_ofFn]; rfl)

/-- Settles O21: RC only answers, with the vector's eight values in order. -/
theorem rcReply : Obligations.RcReply := fun _ s =>
  exec_of_answer (by rw [handlerResult, toList_eq_ofFn]; rfl)

/-- Settles O22: ATTITUDE only answers. -/
theorem attitudeReply : Obligations.AttitudeReply := fun _ _ => exec_of_answer rfl

/-- Settles O23: ALTITUDE only answers. -/
theorem altitudeReply : Obligations.AltitudeReply := fun _ _ => exec_of_answer rfl

/-- Settles O25: MB1242 only answers. -/
theorem mb1242Reply : Obligations.Mb1242Reply := fun _ _ => exec_of_answer rfl

/-- Settles O26: BUILDINFO only answers. -/
theorem buildInfoReply_holds : Obligations.BuildInfoReply := fun _ _ => exec_of_answer rfl

/-- PX4FLOW only answers, with the status that the parameter selects (R10, R137). -/
theorem exec_px4flow (p : List Byte) (s : State) :
    exec (.px4flow p) s = .next (s.replied (px4flowOk Config.px4flowMode) []) :=
  exec_of_answer rfl

/-- UNKNOWN only answers, with the error status (R143). -/
theorem exec_unknown (c : Byte) (p : List Byte) (s : State) : exec (.unknown c p) s = .next (s.replied false []) :=
  exec_of_answer rfl

/-- Settles O24: the status is the one of each of the parameter's two values. -/
theorem px4flowReply : Obligations.Px4flowReply := by
  intro p s
  rw [exec_px4flow]
  cases Config.px4flowMode <;> rfl

/-- A reply with no payload: its length is 0, so its checksum is the id (R62 to R64). -/
theorem replyFrame_nil (ok : Bool) (cmd : Byte) :
    replyFrame ok cmd [] = [startMarker, protocolLetter, statusByte ok, 0x00#8, cmd, cmd] := by
  simp [replyFrame, frameBytes, frameChecksum]

/-- Settles O30: the error reply has no payload, and an unregistered PX4FLOW answers as UNKNOWN does. -/
theorem unknownErrorReply : Obligations.UnknownErrorReply := by
  intro c p s
  rw [exec_unknown, exec_px4flow]
  constructor
  · rw [State.replied, replyFrame_nil]
    rfl
  · cases Config.px4flowMode <;> rfl

/-! ## The handlers that control -/

/-- Settles O27: the channel values are read in order, and written before the reply. -/
theorem setRawRcWritesChannels : Obligations.SetRawRcWritesChannels := fun p s => exec_frame (.setRawRc p) s _ rfl

/-- Settles O28: the four setter calls are made in channel order, before the reply. -/
theorem setMotorSetsChannels : Obligations.SetMotorSetsChannels := fun p s => exec_frame (.setMotor p) s _ rfl

/-- Settles O29: the reply of length 0, and the flag. -/
theorem rebootSetsPending : Obligations.RebootSetsPending := by
  intro p s
  rw [exec_frame (.reboot p) s _ rfl, ← answerResult_apply]
  rfl

/-! ## Every handler -/

/-- A frame that is dispatched ends in its handler's result, applied (R130). -/
theorem exec_frame_next {i : Instr} {s t : State} (hi : isFrame i = true) (h : exec i s = .next t) :
    ∃ r, handlerResult i s = some r ∧ t = r.apply s := by
  obtain ⟨r, hr⟩ := handlerResult_isSome i s hi
  exact ⟨r, hr, Host.Outcome.next.inj (h.symm.trans (exec_frame i s r hr))⟩

/-- Settles O52: a handler's result is applied to those fields only, and only REBOOT's sets the flag. -/
theorem dispatchWritesOnly : Obligations.DispatchWritesOnly := by
  intro i s t hi h
  obtain ⟨r, hr, rfl⟩ := exec_frame_next hi h
  refine ⟨rfl, fun hne => ?_⟩
  rw [HandlerResult.apply_pendReboot, Bool.eq_iff_iff, handlerResult_pending hr]
  simp [hne]

/-- What a handler's result appends to the trace of a state with command id `cmd`. -/
def HandlerResult.outputs (r : HandlerResult) (cmd : Byte) : List Output :=
  r.before ++ txs (replyFrame r.ok cmd r.payload)

theorem HandlerResult.apply_trace (r : HandlerResult) (s : State) :
    (r.apply s).trace = s.trace ++ r.outputs s.cmd :=
  List.append_assoc ..

section
variable {s t : State}

/-- A payload byte that has been written is read from the buffer, whatever has been drawn (R52). -/
theorem payloadByte_eq_of_written {k : Nat} (hbuf : t.buf = s.buf) (hk : (s.buf.read k).isSome) :
    t.payloadByte k = s.payloadByte k := by
  obtain ⟨b, hb⟩ := Option.isSome_iff_exists.mp hk
  simp [State.payloadByte, State.byteFrom, hbuf, hb]

theorem payloadShort_eq_of_written {n k : Nat} (hbuf : t.buf = s.buf)
    (hwritten : ∀ j, j < n → (s.buf.read j).isSome) (hk : k + 1 < n) : t.payloadShort k = s.payloadShort k := by
  simp only [State.payloadShort, payloadByte_eq_of_written hbuf (hwritten _ hk),
    payloadByte_eq_of_written hbuf (hwritten _ (Nat.lt_of_succ_lt hk))]

/-- A handler's outputs depend on the sample, the id and the buffer only, where the bytes it reads have been written
(R146). -/
theorem handlerResult_outputs_eq {i : Instr} {r q : HandlerResult} (hbuf : t.buf = s.buf) (henv : t.env = s.env)
    (hwritten : ∀ k, k < bytesRead i → (s.buf.read k).isSome) (hr : handlerResult i s = some r)
    (hq : handlerResult i t = some q) (cmd : Byte) : q.outputs cmd = r.outputs cmd := by
  have hshort : ∀ k, k + 1 < bytesRead i → t.payloadShort k = s.payloadShort k := fun k =>
    payloadShort_eq_of_written hbuf hwritten
  cases i <;> cases hr <;> cases hq
  case setRawRc =>
    simp only [bytesRead] at hshort
    simp [HandlerResult.outputs, answerResult, rawRcValues, hshort]
  case setMotor =>
    simp only [bytesRead] at hshort
    simp [HandlerResult.outputs, answerResult, motorCalls, hshort]
  all_goals simp [HandlerResult.outputs, answerResult, henv]

end

/-- Settles O53: the first dispatch leaves the sample, the id and the buffer as they were. -/
theorem dispatchIsRepeatable : Obligations.DispatchIsRepeatable := by
  intro i s t u hi hwritten ht hu
  obtain ⟨r, hr, rfl⟩ := exec_frame_next hi ht
  obtain ⟨q, hq, rfl⟩ := exec_frame_next hi hu
  refine ⟨r.outputs s.cmd, r.apply_trace s, ?_⟩
  rw [q.apply_trace]
  exact congrArg _ (handlerResult_outputs_eq (s := s) (t := r.apply s) rfl rfl hwritten hr hq s.cmd)

/-- A reply differs from the inbound frame of its id and payload in the status byte only (R61, R63, R71). -/
theorem replyFrame_set_status (ok : Bool) (cmd : Byte) (bs : List Byte) :
    (replyFrame ok cmd bs).set 2 inboundArrow = inboundFrame cmd bs := rfl

/-- Settles O54: a reply's payload is at most 19 bytes, which fits in every block (R6, R65). -/
theorem replyRoundTrip : Obligations.ReplyRoundTrip := by
  intro i s t hi h
  obtain ⟨r, hr, rfl⟩ := exec_frame_next hi h
  refine ⟨r.before, r.ok, r.payload, rfl, handlerResult_before_ne_tx hr, ?_⟩
  have hfits : r.payload.length ≤ Config.capacity := (handlerResult_payload_length_le hr).trans capacity_bounds.1
  exact (congrArg decode (replyFrame_set_status r.ok s.cmd r.payload)).trans (decode_inboundFrame s.cmd r.payload hfits)

end Sys2Proof.Machine

/-! PROOFS. The driver: what an Invoke does, and that a halted block has no step (spec/43_driver.md R160, R164). -/

namespace Sys2Proof.Machine

/-! ## Invoke -/

/-- A pending reboot is taken instead of latching the armed mode (R160, R178). -/
theorem invoke_of_pendReboot {s : State} (a : Bool) (h : s.pendReboot = true) : invoke a s = sysReset .normal s :=
  if_pos h

/-- With no reboot pending, the armed mode is latched (R160). -/
theorem invoke_of_not_pendReboot {s : State} (a : Bool) (h : ¬ s.pendReboot = true) : invoke a s = latchArmed a s :=
  if_neg h

/-- Settles O42: consuming the event leaves the flag as it was, so the flag before the step selects the branch. -/
theorem invokeTakesRebootOrLatches : Obligations.InvokeTakesRebootOrLatches := by
  intro s a rest hh hi
  rw [step_of_invoke hh hi]
  split
  case isTrue hpend => exact congrArg _ (invoke_of_pendReboot (s := consume rest s) a hpend)
  case isFalse hpend => exact congrArg _ (invoke_of_not_pendReboot (s := consume rest s) a hpend)

/-! ## Halted -/

/-- The external reset ends the halted state (R190). -/
@[simp] theorem hostReset_halted (s : State) : (hostReset s).halted = none := rfl

/-- Settles O43: the driver tests `halted` before it looks at the event. -/
theorem haltedHasNoStep : Obligations.HaltedHasNoStep := fun s _ hh => ⟨step_of_halted hh, hostReset_halted s⟩

end Sys2Proof.Machine

/-! PROOFS. Error and reset rules: where the armed mode matters, and what halts the block
(spec/60_exceptions.md R175, R181).
-/

namespace Sys2Proof.Machine

/-! ## The armed mode outside IDLE -/

/-- `s` in the given armed mode. -/
def setArmed (a : Bool) (s : State) : State := { s with armed := a }

section
variable (a : Bool) (b : Byte) (s : State)

theorem parseLetter_setArmed : parseLetter b (setArmed a s) = setArmed a (parseLetter b s) := by
  unfold parseLetter
  split <;> rfl

theorem parseDirection_setArmed : parseDirection b (setArmed a s) = setArmed a (parseDirection b s) := by
  unfold parseDirection
  split <;> rfl

theorem parseLength_setArmed (capacity : Nat) :
    parseLength capacity b (setArmed a s) = setArmed a (parseLength capacity b s) := by
  unfold parseLength
  split <;> rfl

theorem parseId_setArmed : parseId b (setArmed a s) = setArmed a (parseId b s) := rfl

theorem storePayload_setArmed (capacity : Nat) :
    storePayload capacity b (setArmed a s) = thenState (storePayload capacity b s) (setArmed a) := by
  rw [storePayload, storePayload, apply_ite (thenState · _)]
  rfl

/-- No handler looks at the armed mode (R181). -/
theorem handlerResult_setArmed (i : Instr) : handlerResult i (setArmed a s) = handlerResult i s := by
  cases i <;> rfl

theorem dispatch_setArmed : dispatch (setArmed a s) = thenState (dispatch s) (setArmed a) := by
  obtain ⟨r, hr⟩ := handlerResult_isSome _ s (isFrame_ofCommand s.cmd (framePayload s))
  rw [dispatch_eq s r hr, dispatch_eq (setArmed a s) r ((handlerResult_setArmed a s _).trans hr)]
  rfl

theorem parseChecksum_setArmed :
    parseChecksum b (setArmed a s) = thenState (parseChecksum b s) (setArmed a) := by
  rw [parseChecksum, parseChecksum, dispatch_setArmed, apply_ite (thenState · _)]
  rfl

theorem parseBody_setArmed (capacity : Nat) :
    parseBody capacity b (setArmed a s) = thenState (parseBody capacity b s) (setArmed a) := by
  rw [parseBody, parseBody, storePayload_setArmed, parseChecksum_setArmed, apply_ite (thenState · _),
    apply_ite (thenState · _)]
  rfl

/-- Outside IDLE the parser neither reads nor writes the armed mode, and stops alike in both (R181). -/
theorem parse_setArmed (hp : s.pstate ≠ .idle) :
    parse b (setArmed a s) = thenState (parse b s) (setArmed a) := by
  cases hstate : s.pstate with
  | idle => exact absurd hstate hp
  | headerStart =>
    rw [parse_headerStart b hstate, parse_headerStart (s := setArmed a s) b hstate, parseLetter_setArmed]
    rfl
  | headerM =>
    rw [parse_headerM b hstate, parse_headerM (s := setArmed a s) b hstate, parseDirection_setArmed]
    rfl
  | headerArrow =>
    rw [parse_headerArrow b hstate, parse_headerArrow (s := setArmed a s) b hstate, parseLength_setArmed]
    rfl
  | headerSize =>
    rw [parse_headerSize b hstate, parse_headerSize (s := setArmed a s) b hstate, parseId_setArmed]
    rfl
  | headerCmd =>
    rw [parse_headerCmd b hstate, parse_headerCmd (s := setArmed a s) b hstate, parseBody_setArmed]

end

/-- Settles O46: both steps bring the byte to the parser, which looks at the armed mode in IDLE only. -/
theorem armedMattersOnlyInIdle : Obligations.ArmedMattersOnlyInIdle := by
  intro s a b env rest hr hp
  have hr' : State.Receives (setArmed a s) b env rest := ⟨hr.running, hr.started, hr.offered⟩
  calc step (setArmed a s)
    _ = parse b (setArmed a (s.taking env rest)) := step_of_receives hr'
    _ = thenState (parse b (s.taking env rest)) (setArmed a) := parse_setArmed a b (s.taking env rest) hp
    _ = thenState (step s) (setArmed a) := by rw [step_of_receives hr]

/-! ## What halts the block -/

/-- An Invoke that halts a running block has taken the pending reboot (R160). -/
theorem invoke_of_halts {a : Bool} {s : State} {m : ResetMode} (hs : s.halted = none)
    (ht : (invoke a s).halted = some m) :
    m = .normal ∧ s.pendReboot = true ∧ invoke a s = sysReset .normal s := by
  by_cases hpend : s.pendReboot = true
  · have hreset := invoke_of_pendReboot a hpend
    rw [hreset, sysReset_halted] at ht
    exact ⟨(Option.some.inj ht).symm, hpend, hreset⟩
  · rw [invoke_of_not_pendReboot a hpend, latchArmed_halted, hs] at ht
    cases ht

/-- A transition that halts a running block is REBOOT_CHAR's, in IDLE while unarmed (R104). -/
theorem ParseStep.of_halts {b : Byte} {s t : State} {m : ResetMode} (h : ParseStep b s t) (hs : s.halted = none)
    (ht : t.halted = some m) :
    m = .bootloader ∧ s.pstate = .idle ∧ s.armed = false ∧ b = Config.rebootChar ∧ t = sysReset .bootloader s := by
  cases h with
  | boot hp hb ha => exact ⟨(Option.some.inj ht).symm, hp, ha, hb, rfl⟩
  | _ => cases hs.symm.trans ht

/-- Settles O47: a step starts from a running block, and only a deferred reboot or REBOOT_CHAR halts that. -/
theorem onlyTwoResetPaths : Obligations.OnlyTwoResetPaths := by
  intro s t m hstep ht
  obtain ⟨a, rest, hh, hinvoke, rfl⟩ | ⟨b, env, rest, hr, hparse⟩ := step_next_cases hstep
  · obtain ⟨rfl, hpend, hreset⟩ := invoke_of_halts (s := consume rest s) hh ht
    rw [hreset]
    exact ⟨rfl, hpend, a, rest, hinvoke⟩
  · obtain ⟨rfl, hp, ha, rfl, rfl⟩ := hparse.of_halts hr.running ht
    exact ⟨rfl, hp, ha, env, rest, hr.offered⟩

end Sys2Proof.Machine

/-! PROOFS. Reset and the hazards: values that cannot be observed, a pending reboot, and how runs and frames
end (spec/70_reset_and_hazards.md R190 to R201).
-/

namespace Sys2Proof.Machine

/-! ## Where the parser stops -/

/-- The states in which the parser has no rule for a byte, each with its fault (R32, R48). -/
inductive ParseStops (s : State) : Fault → Prop where
  | noSuchIndex : s.pstate = .headerCmd → s.widx < s.dlen → Config.capacity ≤ s.widx.toNat →
      ParseStops s .noSuchIndex
  | indexPastLength : s.pstate = .headerCmd → s.dlen < s.widx → ParseStops s .indexPastLength

theorem parse_of_parseStops {s : State} {f : Fault} (b : Byte) (h : ParseStops s f) : parse b s = .fault f := by
  cases h with
  | noSuchIndex hp hlt hcap =>
    rw [parse_headerCmd b hp, parseBody, if_pos hlt, storePayload, if_neg (Nat.not_lt.2 hcap)]
  | indexPastLength hp hlt =>
    rw [parse_headerCmd b hp, parseBody, if_neg (BitVec.lt_asymm hlt), if_neg (BitVec.ne_of_lt hlt).symm]

/-- In every state a byte takes a transition, or the parser stops there whatever the byte is. -/
theorem parseStep_or_parseStops (b : Byte) (s : State) : (∃ t, ParseStep b s t) ∨ ∃ f, ParseStops s f := by
  cases hp : s.pstate with
  | idle => exact .inl ⟨_, parse_next ((parse_idle b hp).trans (parseIdle_eq b s))⟩
  | headerStart => exact .inl ⟨_, parse_next (parse_headerStart b hp)⟩
  | headerM => exact .inl ⟨_, parse_next (parse_headerM b hp)⟩
  | headerArrow => exact .inl ⟨_, parse_next (parse_headerArrow b hp)⟩
  | headerSize => exact .inl ⟨_, .command hp⟩
  | headerCmd =>
    by_cases hlt : s.widx < s.dlen
    · obtain hcap | hcap := Nat.lt_or_ge s.widx.toNat Config.capacity
      · exact .inl ⟨_, .payload hp hlt hcap⟩
      · exact .inr ⟨_, .noSuchIndex hp hlt hcap⟩
    by_cases heq : s.widx = s.dlen
    · by_cases hb : b = s.chk
      · obtain ⟨r, hr⟩ := handlerResult_isSome _ s (isFrame_ofCommand s.cmd (framePayload s))
        exact .inl ⟨_, .dispatched r ⟨hp, heq, hb⟩ hr⟩
      · exact .inl ⟨_, .mismatch hp heq hb⟩
    · exact .inr ⟨_, .indexPastLength hp (BitVec.lt_of_le_ne (BitVec.not_lt.1 hlt) (Ne.symm heq))⟩

/-! ## Leftovers cannot be observed -/

section
variable {s t : State}

/-- Until a length is taken, the accumulator, the indices and the id are leftovers, so a move to IDLE or to an early
header stage keeps two states indistinguishable. -/
theorem State.ObsEq.goto (h : s.ObsEq t) {p : ParserState} (hsize : p ≠ .headerSize) (hcmd : p ≠ .headerCmd) :
    (goto p s).ObsEq (goto p t) :=
  { h with
    pstate := rfl
    length := fun hp => absurd hp (not_or.2 ⟨hsize, hcmd⟩)
    cmd := fun hp => absurd hp hcmd }

theorem State.ObsEq.raiseDrop (h : s.ObsEq t) (c : DropCode) : (raiseDrop c s).ObsEq (raiseDrop c t) :=
  { h.goto (p := .idle) (by decide) (by decide) with trace := congrArg (· ++ dropEvents c) h.trace }

theorem State.ObsEq.sysReset (h : s.ObsEq t) (m : ResetMode) : (sysReset m s).ObsEq (sysReset m t) :=
  { h with
    halted := rfl
    trace := congrArg (· ++ [Output.sysResetReq m]) h.trace }

theorem State.ObsEq.latchArmed (h : s.ObsEq t) (a : Bool) : (latchArmed a s).ObsEq (latchArmed a t) :=
  { h with
    started := rfl
    armed := fun _ => rfl }

/-- The sample is no part of the comparison. -/
theorem State.ObsEq.taking (h : s.ObsEq t) (env env' : EnvSample) (rest : List Event) :
    (s.taking env rest).ObsEq (t.taking env' rest) :=
  { h with inputs := rfl }

theorem State.ObsEq.consume (h : s.ObsEq t) (rest : List Event) : (consume rest s).ObsEq (consume rest t) :=
  h.taking s.env t.env rest

/-- An Invoke tests the pending-reboot flag only, and writes the armed mode (R160, R190). -/
theorem State.ObsEq.invoke (h : s.ObsEq t) (a : Bool) : (invoke a s).ObsEq (invoke a t) := by
  unfold Machine.invoke
  rw [← h.pendReboot]
  split
  · exact h.sysReset .normal
  · exact h.latchArmed a

/-- R111: an accepted length rewrites the accumulator and both indices. -/
theorem State.ObsEq.length_taken (h : s.ObsEq t) (b : Byte) :
    State.ObsEq { s with dlen := b, widx := 0, chk := b, pstate := .headerSize }
      { t with dlen := b, widx := 0, chk := b, pstate := .headerSize } :=
  { h with
    pstate := rfl
    length := fun _ => ⟨rfl, rfl, rfl⟩
    cmd := by simp }

/-- R112: the command id rewrites `cmd`. -/
theorem State.ObsEq.command_taken (h : s.ObsEq t) (hp : s.pstate = .headerSize) (b : Byte) :
    State.ObsEq { s with chk := s.chk ^^^ b, cmd := b, pstate := .headerCmd }
      { t with chk := t.chk ^^^ b, cmd := b, pstate := .headerCmd } := by
  obtain ⟨hchk, hwidx, hdlen⟩ := h.length (.inl hp)
  exact { h with
    pstate := rfl
    length := fun _ => ⟨congrArg (· ^^^ b) hchk, hwidx, hdlen⟩
    cmd := fun _ => rfl }

/-- R113: the byte is stored at the same index of the same buffer. -/
theorem State.ObsEq.payload_taken (h : s.ObsEq t) (hp : s.pstate = .headerCmd) (b : Byte) :
    State.ObsEq { s with chk := s.chk ^^^ b, buf := s.buf.write s.widx.toNat b, widx := s.widx + 1 }
      { t with chk := t.chk ^^^ b, buf := t.buf.write t.widx.toNat b, widx := t.widx + 1 } := by
  obtain ⟨hchk, hwidx, hdlen⟩ := h.length (.inr hp)
  exact { h with
    buf := by rw [h.buf, hwidx]
    length := fun _ => ⟨congrArg (· ^^^ b) hchk, congrArg (· + 1) hwidx, hdlen⟩ }

/-- A handler looks at the buffer, the free bytes drawn, the pending-reboot flag and the sample only. -/
theorem handlerResult_congr (i : Instr) (hbuf : s.buf = t.buf) (hdraws : s.draws = t.draws)
    (hpend : s.pendReboot = t.pendReboot) (henv : s.env = t.env) : handlerResult i s = handlerResult i t := by
  have hunwritten : ∀ start k, s.unwrittenFrom start k = t.unwrittenFrom start k := fun start k => by
    simp only [State.unwrittenFrom, hbuf]
  have hshort : ∀ k, s.payloadShort k = t.payloadShort k := fun k => by
    simp only [State.payloadShort, State.payloadByte, State.byteFrom, hbuf, hdraws, hunwritten]
  cases i <;> simp only [handlerResult, answerResult, rawRcValues, motorCalls, hshort, hunwritten, hpend, henv]

/-- R130, R145: the same result rewrites `rcur` and `chk`, and the reply echoes the same id. -/
theorem State.ObsEq.dispatched (h : s.ObsEq t) (hcmd : s.cmd = t.cmd) (r : HandlerResult) :
    (Machine.goto .idle (r.apply s)).ObsEq (Machine.goto .idle (r.apply t)) :=
  { h with
    pstate := rfl
    pendReboot := rfl
    draws := congrArg (· + r.drawn) h.draws
    trace := by simp only [goto_trace, HandlerResult.apply_trace, h.trace, hcmd]
    length := by simp
    cmd := by simp }

/-- Every transition is taken alike from two states that differ in leftovers only. -/
theorem ParseStep.of_obsEq {b : Byte} {s' : State} (hstep : ParseStep b s s') (h : s.ObsEq t)
    (hstarted : s.started = true) (henv : s.env = t.env) : ∃ t', ParseStep b t t' ∧ s'.ObsEq t' := by
  cases hstep with
  | start hp hb => exact ⟨_, .start (h.pstate ▸ hp) hb, h.goto (by decide) (by decide)⟩
  | boot hp hb ha => exact ⟨_, .boot (h.pstate ▸ hp) hb (h.armed hstarted ▸ ha), h.sysReset _⟩
  | ignored hp hb ha => exact ⟨_, .ignored (h.pstate ▸ hp) hb (h.armed hstarted ▸ ha), h⟩
  | letter hp hb => exact ⟨_, .letter (h.pstate ▸ hp) hb, h.goto (by decide) (by decide)⟩
  | badLetter hp hb => exact ⟨_, .badLetter (h.pstate ▸ hp) hb, h.raiseDrop _⟩
  | direction hp hb => exact ⟨_, .direction (h.pstate ▸ hp) hb, h.goto (by decide) (by decide)⟩
  | badDirection hp hb => exact ⟨_, .badDirection (h.pstate ▸ hp) hb, h.raiseDrop _⟩
  | oversized hp hb => exact ⟨_, .oversized (h.pstate ▸ hp) hb, h.raiseDrop _⟩
  | length hp hb => exact ⟨_, .length (h.pstate ▸ hp) hb, h.length_taken b⟩
  | command hp => exact ⟨_, .command (h.pstate ▸ hp), h.command_taken hp b⟩
  | payload hp hlt hcap =>
    obtain ⟨-, hwidx, hdlen⟩ := h.length (.inr hp)
    exact ⟨_, .payload (h.pstate ▸ hp) (hwidx ▸ hdlen ▸ hlt) (hwidx ▸ hcap), h.payload_taken hp b⟩
  | dispatched r hc hr =>
    obtain ⟨hp, hw, hb⟩ := hc
    obtain ⟨hchk, hwidx, hdlen⟩ := h.length (.inr hp)
    have hcmd := h.cmd hp
    have hr' : handlerResult (Instr.ofCommand t.cmd (framePayload t)) t = some r := by
      rw [← hr, framePayload, framePayload, h.buf, hdlen, hcmd,
        handlerResult_congr _ h.buf h.draws h.pendReboot henv]
    exact ⟨_, .dispatched r ⟨h.pstate ▸ hp, hwidx ▸ hdlen ▸ hw, hchk ▸ hb⟩ hr', h.dispatched hcmd r⟩
  | mismatch hp hw hb =>
    obtain ⟨hchk, hwidx, hdlen⟩ := h.length (.inr hp)
    exact ⟨_, .mismatch (h.pstate ▸ hp) (hwidx ▸ hdlen ▸ hw) (hchk ▸ hb), h.raiseDrop _⟩

theorem ParseStops.of_obsEq {f : Fault} (hstop : ParseStops s f) (h : s.ObsEq t) : ParseStops t f := by
  cases hstop with
  | noSuchIndex hp hlt hcap =>
    obtain ⟨-, hwidx, hdlen⟩ := h.length (.inr hp)
    exact .noSuchIndex (h.pstate ▸ hp) (hwidx ▸ hdlen ▸ hlt) (hwidx ▸ hcap)
  | indexPastLength hp hlt =>
    obtain ⟨-, hwidx, hdlen⟩ := h.length (.inr hp)
    exact .indexPastLength (h.pstate ▸ hp) (hwidx ▸ hdlen ▸ hlt)

/-- A byte is parsed alike from two states that differ in leftovers only, once its sample stands in both. -/
theorem State.ObsEq.parse (h : s.ObsEq t) (hstarted : s.started = true) (henv : s.env = t.env) (b : Byte) :
    OutcomesObsEq (parse b s) (parse b t) := by
  obtain ⟨s', hstep⟩ | ⟨f, hstop⟩ := parseStep_or_parseStops b s
  · obtain ⟨t', hstep', hobs⟩ := hstep.of_obsEq h hstarted henv
    rw [parse_of_parseStep hstep, parse_of_parseStep hstep']
    exact hobs
  · rw [parse_of_parseStops b hstop, parse_of_parseStops b (hstop.of_obsEq h)]
    exact rfl

end

/-- Settles O55: the driver looks at compared fields only, and the parser does once the byte's sample is taken. -/
theorem residueIsUnobservable : Obligations.ResidueIsUnobservable := by
  intro s t h
  cases hh : s.halted with
  | some m =>
    rw [step_of_halted hh, step_of_halted (h.halted ▸ hh)]
    exact rfl
  | none =>
    have hh' : t.halted = none := h.halted ▸ hh
    cases hi : s.inputs with
    | nil =>
      rw [step_of_noEvent hh hi, step_of_noEvent hh' (h.inputs ▸ hi)]
      exact rfl
    | cons e rest =>
      have hi' : t.inputs = e :: rest := h.inputs ▸ hi
      cases e with
      | invoke a =>
        rw [step_of_invoke hh hi, step_of_invoke hh' hi']
        exact (h.consume rest).invoke a
      | rx b env =>
        cases hs : s.started with
        | false =>
          rw [step_of_notStarted hh hs hi, step_of_notStarted hh' (h.started ▸ hs) hi']
          exact rfl
        | true =>
          rw [step_of_receives ⟨hh, hs, hi⟩, step_of_receives ⟨hh', h.started ▸ hs, hi'⟩]
          exact (h.taking env env rest).parse hs rfl b

/-! ## A pending reboot and the bytes of the same invocation -/

section
variable {s t : State} {b : Byte}

/-- No handler looks at the pending-reboot flag: it only passes it on (R141, R194). -/
theorem handlerResult_setPendReboot {i : Instr} {r : HandlerResult} (h : handlerResult i s = some r) :
    handlerResult i (setPendReboot s) = some { r with pending := true } := by
  cases i <;> cases h <;> rfl

/-- Every transition is taken with the flag set as well, and leaves it set. -/
theorem ParseStep.setPendReboot (h : ParseStep b s t) : ParseStep b (setPendReboot s) (setPendReboot t) := by
  cases h with
  | start hp hb => exact .start hp hb
  | boot hp hb ha => exact .boot hp hb ha
  | ignored hp hb ha => exact .ignored hp hb ha
  | letter hp hb => exact .letter hp hb
  | badLetter hp hb => exact .badLetter hp hb
  | direction hp hb => exact .direction hp hb
  | badDirection hp hb => exact .badDirection hp hb
  | oversized hp hb => exact .oversized hp hb
  | length hp hb => exact .length hp hb
  | command hp => exact .command hp
  | payload hp hlt hcap => exact .payload hp hlt hcap
  | dispatched r hc hr =>
    obtain ⟨hp, hw, hb⟩ := hc
    exact .dispatched { r with pending := true } ⟨hp, hw, hb⟩ (handlerResult_setPendReboot hr)
  | mismatch hp hw hb => exact .mismatch hp hw hb

theorem ParseStops.setPendReboot {f : Fault} (h : ParseStops s f) : ParseStops (setPendReboot s) f := by
  cases h with
  | noSuchIndex hp hlt hcap => exact .noSuchIndex hp hlt hcap
  | indexPastLength hp hlt => exact .indexPastLength hp hlt

/-- The parser neither tests the flag nor clears it, and stops alike with and without it (R194). -/
theorem parse_setPendReboot (b : Byte) (s : State) :
    parse b (setPendReboot s) = thenState (parse b s) setPendReboot := by
  obtain ⟨t, hstep⟩ | ⟨f, hstop⟩ := parseStep_or_parseStops b s
  · rw [parse_of_parseStep hstep, parse_of_parseStep hstep.setPendReboot]
    rfl
  · rw [parse_of_parseStops b hstop, parse_of_parseStops b hstop.setPendReboot]
    rfl

end

/-- Settles O45: both steps bring the byte to the parser, which does not look at the flag. -/
theorem rxIgnoresPendingReboot : Obligations.RxIgnoresPendingReboot := by
  intro s b env rest hr
  have hr' : (setPendReboot s).Receives b env rest := ⟨hr.running, hr.started, hr.offered⟩
  calc step (setPendReboot s)
    _ = parse b (setPendReboot (s.taking env rest)) := step_of_receives hr'
    _ = thenState (parse b (s.taking env rest)) setPendReboot := parse_setPendReboot b _
    _ = thenState (step s) setPendReboot := by rw [step_of_receives hr]

/-- The step that completes a REBOOT frame answers and sets the flag (R114, R141). -/
theorem step_of_reboot {s : State} {b : Byte} {env : EnvSample} {rest : List Event} (hr : s.Receives b env rest)
    (hc : s.CompletesFrame b) (hcmd : s.cmd = 0x44#8) :
    step s = .next (goto .idle (setPendReboot ((s.taking env rest).replied true []))) := by
  obtain ⟨p, hreboot⟩ := (ofCommand_eq_reboot s.cmd (framePayload s)).2 hcmd
  rw [(stepRunsDecodedInstruction s b env rest hr).2 hc, hreboot, rebootSetsPending]
  rfl

/-- Settles O56: the first step replies and sets the flag, and the Invoke takes the pending reboot. -/
theorem rebootReplyPrecedesReset : Obligations.RebootReplyPrecedesReset := by
  intro s b env a rest hr hc hcmd
  have hrun := (run_succ 1 (step_of_reboot hr hc hcmd)).trans ((run_one _).trans (step_of_invoke hr.running rfl))
  rw [invoke_of_pendReboot a rfl] at hrun
  refine ⟨_, hrun, rfl, ?_⟩
  have hreply : replyFrame true s.cmd [] = [0x24#8, 0x4D#8, 0x3E#8, 0x00#8, 0x44#8, 0x44#8] := by
    rw [replyFrame_nil, hcmd]
    rfl
  rw [← hreply]
  rfl

/-! ## Where a run ends -/

/-- A run goes on from the state its first step leads to. -/
theorem endOfRun_succ {s t : State} (k : Nat) (h : step s = .next t) : endOfRun (k + 1) s = endOfRun k t := by
  have hdriver : driverStep s = .next t := h
  simp only [endOfRun, hdriver]

/-- A halted block is at the end of its run, however many steps are allowed (R164, R166). -/
theorem endOfRun_of_halted {s : State} {m : ResetMode} (k : Nat) (hh : s.halted = some m) : endOfRun k s = s := by
  cases k with
  | zero => rfl
  | succ k =>
    have hdriver : driverStep s = .fault .halted := step_of_halted hh
    simp only [endOfRun, hdriver]

/-- Settles O57: REBOOT_CHAR's step halts the block, and the run ends there. -/
theorem bytesAfterBootloaderStay : Obligations.BytesAfterBootloaderStay := by
  intro s env rest k hr hp ha
  rw [endOfRun_succ k ((bootRequestsBootloader s).2 env rest hr hp ha)]
  exact endOfRun_of_halted k rfl

/-! ## A frame under way ends -/

/-- The parser consumes no event: the driver has done that before (R161). -/
theorem ParseStep.inputs_eq {b : Byte} {s t : State} (h : ParseStep b s t) : t.inputs = s.inputs := by
  cases h <;> rfl

/-- Settles O58, by induction on the bytes: a payload byte brings `widx` one closer to `dlen`, and the byte at
`widx = dlen` is the last. -/
theorem frameEndsWithinItsLength : Obligations.FrameEndsWithinItsLength := by
  intro s bytes rest hinv hh hs hp hlen hi
  induction bytes generalizing s with
  | nil => cases hlen
  | cons e bytes ih =>
    obtain ⟨b, env⟩ := e
    have hr : s.Receives b env (bytes.map (fun b => Event.rx b.1 b.2) ++ rest) := ⟨hh, hs, hi⟩
    rw [List.length_cons] at hlen ⊢
    by_cases heq : s.widx = s.dlen
    · obtain rfl : bytes = [] := List.length_eq_zero_iff.1 (by rw [heq] at hlen; omega)
      obtain ⟨t, hparse⟩ := (hinv.taking env rest).parse_answers b
      have hstep := parse_next hparse
      refine ⟨t, (run_one s).trans (hr.step_eq hstep), hstep.pstate_eq.trans ?_, hstep.inputs_eq⟩
      simp [nextParserState, State.taking, hp, heq]
    · have hlt : s.widx < s.dlen := BitVec.lt_of_le_ne hinv.widxLe heq
      have hcap : s.widx.toNat < Config.capacity := Nat.lt_of_lt_of_le (BitVec.lt_def.1 hlt) hinv.dlenLe
      rw [hr.run_eq _ (.payload hp hlt hcap)]
      refine ih _ ((hinv.taking env _).payload hp hlt hcap) hh hs hp ?_ rfl
      have hcount := toNat_succ_of_lt hlt
      have hbelow := BitVec.lt_def.1 hlt
      show bytes.length = s.dlen.toNat - (s.widx + 1).toNat + 1
      omega

/-! ## Reset -/

/-- Settles O1: the external reset takes every field but the model's own from `State.reset`. -/
theorem resetLeavesSpecValues : Obligations.ResetLeavesSpecValues := by
  rintro s r (rfl | rfl) <;> exact ⟨rfl, rfl, rfl, rfl, rfl, rfl, rfl, rfl, rfl, Memory.read_nil⟩

end Sys2Proof.Machine
